-- ==== Sys2Proof/Word.lean ====
section
/-! DEFINITION. The words of the block: bytes, 32-bit registers, 64-bit holders of addresses and lengths, vector reads. -/

namespace Sys2Proof

/-- A byte of buffer memory (20_memory.md R60). -/
abbrev Byte := BitVec 8

/-- A 32-bit register, lane or command word (00_scope.md R22). -/
abbrev Word := BitVec 32

/-- The holder of an ADDR_W-bit address or a LEN_W-bit length, 32 or 64 bits used (00_scope.md R18, R19). -/
abbrev Long := BitVec 64

/-- A vector read of W = 16 bytes packed into one register value (00_scope.md R20). -/
abbrev VecWord := BitVec 128

end Sys2Proof
end

