-- ==== Sys2Proof/Config.lean ====
section
/-! DEFINITION. The constants the spec fixes, the parameters it leaves to the platform, and the free values (draws). -/

namespace Sys2Proof

namespace Config

/-- M = 65521, the modulus (00_scope.md R8). -/
abbrev modulus : Nat := 65521

/-- NMAX = 5552, the scalar overflow bound; no rule of the block uses it (00_scope.md R9). -/
abbrev nmax : Nat := 5552

/-- L = 4 lanes per accumulator (00_scope.md R11). -/
abbrev lanes : Nat := 4

/-- W = 16 bytes per vector read (00_scope.md R12). -/
abbrev width : Nat := 16

/-- G = W / L = 4 bytes of a vector read per lane (00_scope.md R13). -/
abbrev group : Nat := 4

/-- A = W = 16, the alignment the head phase establishes (00_scope.md R14). -/
abbrev align : Nat := 16

/-- FOLD_COUNT = 2 (00_scope.md R15). -/
abbrev foldCount : Nat := 2

/-- X0 = 65745, the largest value FOLD2 can return (42_modular_fold.md R193). -/
abbrev laneStart : Nat := 65745

/-- The default of VNMAX, 10608 = 663 · W (00_scope.md R16). -/
abbrev vnmaxDefault : Nat := 10608

/-- A DRAW: the n-th free 32-bit value, under no law (60_exceptions.md R212, log entry 7).
It has no body, so nothing can be proved of its value. -/
opaque draw : Nat → Word

end Config

/-- ADDR_W or LEN_W: 32 or 64 (00_scope.md R18, R19). -/
inductive BitWidth where
  | w32
  | w64
deriving DecidableEq, Repr

/-- The number of bits. -/
def BitWidth.bits : BitWidth → Nat
  | .w32 => 32
  | .w64 => 64

/-- VEC_PACK: how a vector read's bytes are packed into a register value (00_scope.md R20). -/
inductive VecPack where
  | littleEndian
  | bigEndian
deriving DecidableEq, Repr

/-- INVALID_PRIOR_POLICY (00_scope.md R21). -/
inductive PriorPolicy where
  | reduce
  | any
deriving DecidableEq, Repr

/-- HOST_BUS_ENDIAN, a parameter no rule reads (20_memory.md R64). -/
inductive BusEndian where
  | little
  | big
deriving DecidableEq, Repr

/-- The parameters a model takes as an argument (the table of 00_scope.md, log entry 2). -/
structure Params where
  addrW : BitWidth
  lenW : BitWidth
  vnmax : Nat
  vecPack : VecPack
  priorPolicy : PriorPolicy
  /-- REG_BASE, OPEN (20_memory.md R71). -/
  regBase : Nat
  /-- HOST_BUS_ENDIAN, OPEN (20_memory.md R64). -/
  busEndian : BusEndian
deriving DecidableEq, Repr

/-- The defaults of 00_scope.md R16 and R18 to R21.
REG_BASE and HOST_BUS_ENDIAN have no default: DESIGN CHOICE, log entry 4, safe (no rule reads them). -/
def Params.default : Params where
  addrW := .w32
  lenW := .w32
  vnmax := Config.vnmaxDefault
  vecPack := .littleEndian
  priorPolicy := .reduce
  regBase := 0
  busEndian := .little

/-- A parameter that can lie outside its allowed values (60_exceptions.md R212, X7).
The types of the others admit their allowed values only. -/
inductive ParamName where
  | vnmax
deriving DecidableEq, Repr

end Sys2Proof
end

