-- ==== Sys2Proof/Syntax.lean ====
section
/-! DEFINITION. The instructions of spec/opcode_table.json, the two encoding formats, and the host's register accesses. -/

namespace Sys2Proof

/-- One constructor per row of the opcode table: the host command and the eight micro-operations.
No instruction has an operand field (30_encoding.md R91, R94). -/
inductive Instr where
  /-- UPDATE, the one host command (30_encoding.md R92). -/
  | update
  /-- UNPACK, uop 0x10 (30_encoding.md R95). -/
  | unpack
  /-- SBYTE, uop 0x11. -/
  | sbyte
  /-- FINALMOD, uop 0x12. -/
  | finalmod
  /-- PACK, uop 0x13. -/
  | pack
  /-- VENTER, uop 0x20. -/
  | venter
  /-- VWORD, uop 0x21. -/
  | vword
  /-- VFOLD, uop 0x22. -/
  | vfold
  /-- VEXIT, uop 0x23. -/
  | vexit
deriving DecidableEq, Repr

/-- An encoded instruction in one of the two formats; which one follows from where it is written (30_encoding.md R90). -/
inductive Code where
  /-- A word written to CMD (R91). -/
  | cmd (w : Word)
  /-- A code the sequencer issues (R94). -/
  | uop (c : Byte)
deriving DecidableEq, Repr

/-- The eight register slots (10_state.md R30). -/
inductive Slot where
  | adlerIn
  | adlerOut
  | bufAddrLo
  | bufAddrHi
  | bufLenLo
  | bufLenHi
  | cmd
  | status
deriving DecidableEq, Repr

/-- A host register access as the bus carries it: its width in bits, its offset from REG_BASE,
and the value of a write (20_memory.md R66, 30_encoding.md R101). -/
inductive Access where
  | write (width offset : Nat) (value : Word)
  | read (width offset : Nat)
deriving DecidableEq, Repr

/-- The width of an access in bits. -/
def Access.width : Access → Nat
  | .write w _ _ => w
  | .read w _ => w

/-- The offset of an access. -/
def Access.offset : Access → Nat
  | .write _ o _ => o
  | .read _ o => o

end Sys2Proof
end

