-- ==== Sys2Proof/WellFormed.lean ====
section
/-! DEFINITION. Which codes, accesses and parameters are well formed. Every term of Instr is: none has an operand field. -/

namespace Sys2Proof

/-- The fields of an encoding hold values the format admits: OP = 0x01 and RSVD = 0 (30_encoding.md R91, R92),
FAM 1 or 2 and FN 0 to 3 (R94, R95). -/
def Code.wf : Code → Bool
  | .cmd w => w.extractLsb' 0 8 == 1 && w.extractLsb' 8 24 == 0
  | .uop c => (c.extractLsb' 4 4 == 1 || c.extractLsb' 4 4 == 2) && decide (c.extractLsb' 0 4 ≤ 3)

/-- A register access is an aligned 32-bit access (20_memory.md R66). -/
def Access.wf (a : Access) : Bool :=
  a.width == 32 && a.offset % 4 == 0

/-- The left side of the safety inequality for K reads per chunk (41_vector_reduce.md R169). -/
def chunkBound (k : Nat) : Nat :=
  Config.laneStart * (1 + Config.width * k)
    + 255 * Config.width * Config.group * (k * (k - 1) / 2)
    + 255 * k * (Config.group * Config.width - Config.group * (Config.group - 1) / 2)

/-- An allowed VNMAX (00_scope.md R16, 41_vector_reduce.md R169). -/
def vnmaxOk (v : Nat) : Bool :=
  v % Config.width == 0 && decide (1 ≤ v / Config.width)
    && decide (chunkBound (v / Config.width) ≤ 2 ^ 32 - 1)

/-- An allowed configuration (60_exceptions.md R212, X7). -/
def Params.wf (p : Params) : Bool :=
  vnmaxOk p.vnmax

end Sys2Proof
end

