-- ==== Sys2Proof/Decode.lean ====
section
/-! DEFINITION. The decoder, total on every CMD word and every UOP code, and after it the encoder. -/

namespace Sys2Proof

/-- What the decoder answers; a code outside the tables is rejected by name. -/
inductive Decoded where
  | instr (i : Instr)
  /-- X1 RESERVED_CMD: a CMD word the table does not hold (30_encoding.md R93). -/
  | reservedCmd (w : Word)
  /-- X6 UNKNOWN_UOP: a UOP code the table does not hold (30_encoding.md R95). -/
  | unknownUop (c : Byte)
deriving DecidableEq, Repr

/-- A row of the opcode table: the bits a code must have where the mask is set. -/
structure OpcodeRow (n : Nat) where
  mask : BitVec n
  pattern : BitVec n
  instr : Instr
deriving DecidableEq, Repr

/-- A code falls under a row. -/
def OpcodeRow.covers {n : Nat} (r : OpcodeRow n) (w : BitVec n) : Bool :=
  w &&& r.mask == r.pattern

/-- The rows of format CMD (opcode_table.json). -/
def cmdTable : List (OpcodeRow 32) :=
  [⟨0xFFFFFFFF, 0x00000001, .update⟩]

/-- The rows of format UOP (opcode_table.json, 30_encoding.md R95). -/
def uopTable : List (OpcodeRow 8) :=
  [⟨0xFF, 0x10, .unpack⟩, ⟨0xFF, 0x11, .sbyte⟩, ⟨0xFF, 0x12, .finalmod⟩, ⟨0xFF, 0x13, .pack⟩,
   ⟨0xFF, 0x20, .venter⟩, ⟨0xFF, 0x21, .vword⟩, ⟨0xFF, 0x22, .vfold⟩, ⟨0xFF, 0x23, .vexit⟩]

/-- The instruction of the row that covers a code. -/
def lookupRow {n : Nat} (table : List (OpcodeRow n)) (w : BitVec n) : Option Instr :=
  (table.find? (fun r => r.covers w)).map OpcodeRow.instr

/-- Decoding a code (30_encoding.md R90: the format follows from where the code is written). -/
def decode : Code → Decoded
  | .cmd w => match lookupRow cmdTable w with
    | some i => .instr i
    | none => .reservedCmd w
  | .uop c => match lookupRow uopTable c with
    | some i => .instr i
    | none => .unknownUop c

/-- A command word from its fields OP = CMD[7:0] and RSVD = CMD[31:8] (30_encoding.md R91). -/
def cmdWord (rsvd : BitVec 24) (op : BitVec 8) : Code :=
  .cmd (rsvd ++ op)

/-- A micro-operation code from its fields FAM = uop[7:4] and FN = uop[3:0] (30_encoding.md R94). -/
def uopCode (fam fn : BitVec 4) : Code :=
  .uop (fam ++ fn)

/-- The encoding of an instruction, from the FAM and FN columns of 30_encoding.md R95 and from R92. -/
def encode : Instr → Code
  | .update => cmdWord 0 1
  | .unpack => uopCode 1 0
  | .sbyte => uopCode 1 1
  | .finalmod => uopCode 1 2
  | .pack => uopCode 1 3
  | .venter => uopCode 2 0
  | .vword => uopCode 2 1
  | .vfold => uopCode 2 2
  | .vexit => uopCode 2 3

/-- The code an opcode-table row of `nbits` bits holds: 32 bits are a CMD word, 8 bits a UOP code (30_encoding.md R90). -/
def tableCode (nbits w : Nat) : Option Code :=
  match nbits with
  | 32 => some (.cmd (BitVec.ofNat 32 w))
  | 8 => some (.uop (BitVec.ofNat 8 w))
  | _ => none

/-- The instruction the decoder reads from a row's bits. -/
def decodeTableWord (nbits w : Nat) : Option Instr :=
  match tableCode nbits w with
  | some c => match decode c with
    | .instr i => some i
    | .reservedCmd _ => none
    | .unknownUop _ => none
  | none => none

end Sys2Proof
end

