-- ==== Sys2Proof/Machine/State.lean ====
section
/-! DEFINITION. The state of one engine instance with its memory and its environment, the reasons a step can stop, and reset. -/

namespace Sys2Proof.Machine

/-- The sequencer register (10_state.md R44). -/
inductive Seq where
  | idle
  | unpack
  | head
  | venter
  | vword
  | vfold
  | vexit
  | tail
  | finalmod
  | pack
deriving DecidableEq, Repr

/-- The four 32-bit lanes of one accumulator (10_state.md R41). -/
structure Lanes where
  l0 : Word
  l1 : Word
  l2 : Word
  l3 : Word
deriving DecidableEq, Repr

/-- The written marks: "written since reset" (10_state.md R43). -/
structure Marks where
  adlerIn : Bool
  bufAddrLo : Bool
  bufAddrHi : Bool
  bufLenLo : Bool
  bufLenHi : Bool
  adlerOut : Bool
deriving DecidableEq, Repr

/-- The reasons the fault record holds, with the info of 60_exceptions.md R212.
Safe: the engine takes no further step after any of them. -/
inductive FaultReason where
  /-- F1, raised by UPDATE: the offset of the first unwritten input register. -/
  | unwrittenInput (offset : Nat)
  /-- F2, raised by UPDATE while BUSY. -/
  | cmdWhileBusy
  /-- F3, raised by a write of an input register while BUSY: its offset. -/
  | writeWhileBusy (offset : Nat)
  /-- F4, raised by UNPACK: BUF_ADDR and BUF_LEN. -/
  | bufWrap (addr len : Nat)
  /-- F5, raised by a read of a register with no value since reset: its offset. -/
  | unwrittenRead (offset : Nat)
deriving DecidableEq, Repr

/-- The reasons that set the refusal mark, with the info of 60_exceptions.md R212.
Safe: the refused access has no other effect. -/
inductive RefusalReason where
  /-- X1, raised by a CMD write: its value. -/
  | reservedCmd (value : Word)
  /-- X2, raised by an access to a reserved slot: its offset. -/
  | reservedOffset (offset : Nat)
  /-- X3, raised by an access that is not an aligned 32-bit access: its offset and width. -/
  | badAccess (offset width : Nat)
  /-- X4, raised by a write to STATUS or ADLER_OUT: its offset. -/
  | writeToRo (offset : Nat)
  /-- X5, raised by a read of CMD: its offset. -/
  | readOfWo (offset : Nat)
  /-- X6, raised by the issue of a UOP code outside the table: the code. The sequencer never issues one. -/
  | unknownUop (code : Byte)
  /-- X7, raised by UPDATE in a configuration that is not allowed: the parameter. -/
  | badConfig (parameter : ParamName)
  /-- X8, raised by a write to a byte of the running UPDATE's buffer while BUSY: its address. -/
  | bufWriteWhileBusy (addr : Nat)
deriving DecidableEq, Repr

/-- Why the read port does not admit a region (20_memory.md R70). -/
inductive RegionKind where
  | unmapped
  | unreadable
  | readSideEffects
deriving DecidableEq, Repr

/-- A region of buffer memory that the read port does not admit (20_memory.md R70, R72). -/
structure Region where
  base : Nat
  size : Nat
  kind : RegionKind
deriving DecidableEq, Repr

/-- A line of the host's program (30_encoding.md R99, R100); a pseudo-instruction that is a fixed list of accesses
is expanded in Machine/HostProgram.lean. -/
inductive HostOp where
  /-- `WR <reg>, <value32>` (R99). -/
  | wr (r : Slot) (value : Word)
  /-- `RD <reg>` (R99). -/
  | rd (r : Slot)
  /-- `WAITDONE`: RD STATUS, again until bit 1 of the value read is 1 (R100). -/
  | waitDone
  /-- `CHAIN`: RD ADLER_OUT, then WR ADLER_IN with the value read (R100). -/
  | chain
  /-- The host writes a byte of buffer memory (95_test_vectors.md P2 line 7, 20_memory.md R74). -/
  | store (addr : Nat) (value : Byte)
deriving DecidableEq, Repr

/-- One pending step of the environment, or a turn given to the engine or the host (log entry 1). -/
inductive Input where
  /-- The engine agent takes its next step (70_reset_and_hazards.md R246). -/
  | engine
  /-- The host agent takes the next step of its program (30_encoding.md R99, 70_reset_and_hazards.md R246, log entry 26). -/
  | host
  /-- A register access from outside State.program, of any width and offset (20_memory.md R66, R76). -/
  | access (a : Access)
  /-- An agent writes a byte of buffer memory, visible at the read port at once (20_memory.md R73, R74, log entry 14). -/
  | memWrite (addr : Nat) (value : Byte)
  /-- The platform sets which regions the read port does not admit (20_memory.md R70, R72). -/
  | admission (unreadable : List Region)
  /-- The platform's reset event (70_reset_and_hazards.md R240). -/
  | reset
deriving DecidableEq, Repr

/-- A value a host read returned, with the offset read (log entry 20). -/
structure Reply where
  offset : Nat
  value : Word
deriving DecidableEq, Repr

/-- Buffer memory as address and byte pairs, addresses strictly rising, no entry equal to what an unlisted address reads as. -/
abbrev Memory := List Host.Cell

/-- Everything the spec gives one engine instance, and the environment its rules read. -/
structure State where
  /-- The parameters; no step changes them (log entry 2). -/
  cfg : Params
  /-- ADLER_IN (10_state.md R31). -/
  adlerIn : Word
  /-- ADLER_OUT (R36). -/
  adlerOut : Word
  /-- BUF_ADDR_LO (R32). -/
  bufAddrLo : Word
  /-- BUF_ADDR_HI (R32). -/
  bufAddrHi : Word
  /-- BUF_LEN_LO (R33). -/
  bufLenLo : Word
  /-- BUF_LEN_HI (R33). -/
  bufLenHi : Word
  /-- STATUS.BUSY (R35). -/
  busy : Bool
  /-- STATUS.DONE (R35). -/
  done : Bool
  /-- The written marks (R43). -/
  written : Marks
  /-- The working sum s1 (R38). -/
  s1 : Word
  /-- The working sum s2 (R38). -/
  s2 : Word
  /-- ptr, in the low ADDR_W bits (R39). -/
  ptr : Long
  /-- rem, in the low LEN_W bits (R39). -/
  rem : Long
  /-- head, the head-phase bytes still to read (R40). -/
  head : BitVec 5
  /-- chunk, the bytes still to read in the current chunk (R40). -/
  chunk : BitVec 14
  /-- The unweighted accumulator (R41). -/
  vs1 : Lanes
  /-- The weighted accumulator (R41). -/
  vs2 : Lanes
  /-- inv: an invalid prior with a nonzero length (R42). -/
  inv : Bool
  /-- The sequencer (R44). -/
  seq : Seq
  /-- The fault record, a set without repeats, first recorded first (R49). -/
  faults : List FaultReason
  /-- The refusal mark (R49). -/
  refusalMark : Bool
  /-- The reasons behind the mark, without repeats (60_exceptions.md R212, log entry 20). -/
  refusals : List RefusalReason
  /-- Buffer memory (20_memory.md R60). -/
  mem : Memory
  /-- The regions the read port does not admit (20_memory.md R70). -/
  unreadable : List Region
  /-- MODEL: the environment's pending steps, first one next (log entry 1). -/
  inputs : List Input
  /-- MODEL: the rest of the host's program, next line first (30_encoding.md R99, log entry 26). -/
  program : List HostOp
  /-- MODEL: the values host reads returned, oldest first (log entry 20). -/
  replies : List Reply
  /-- MODEL: the number of draws taken, which selects the next free value (log entry 7). -/
  draws : Nat
deriving DecidableEq, Repr

/-- The reasons a meaning stops. Each is safe: the model stops where the spec gives no effect.
The stuck state S1 is none of them: the engine waits and the machine goes on (stuckAt in Machine/Sequencer.lean). -/
inductive Fault where
  /-- Raised by a micro-operation while a fault is recorded: the engine takes no further step (60_exceptions.md R212).
  A step of the machine never raises it, since the engine then waits.
  Safe. -/
  | engineHalted
  /-- Raised by a micro-operation that seq does not name: it runs only when seq names it (40_engine_update.md, before R120).
  A step of the machine never raises it.
  Safe. -/
  | notSelected (i : Instr)
  /-- Raised by a memory write outside the 2^ADDR_W addresses of buffer memory (20_memory.md R60, log entry 15).
  Safe. -/
  | noSuchAddress (addr : Nat)
deriving DecidableEq, Repr

/-- The reasons the model gives no meaning. -/
inductive Refusal where
  /-- Raised by an arm of exec whose instruction has no meaning yet.
  Safe. -/
  | notModelled (mnemonic : String)
  /-- X7, raised by a micro-operation in a configuration that is not allowed (41_vector_reduce.md R172).
  Safe. -/
  | badConfig (parameter : ParamName)
deriving DecidableEq, Repr

/-- What a step answers. -/
abbrev Out := Host.Outcome State Fault Refusal

/-- Four zero lanes: the reset value of an accumulator is DESIGN CHOICE, log entry 3. -/
def Lanes.zero : Lanes := ⟨0, 0, 0, 0⟩

/-- No register written (10_state.md R48). -/
def Marks.clear : Marks := ⟨false, false, false, false, false, false⟩

/-- The machine right after reset (10_state.md R48, 70_reset_and_hazards.md R240).
The values of unwritten state are DESIGN CHOICE, log entry 3, unsafe. -/
def State.reset : State where
  cfg := .default
  adlerIn := 0
  adlerOut := 0
  bufAddrLo := 0
  bufAddrHi := 0
  bufLenLo := 0
  bufLenHi := 0
  busy := false
  done := false
  written := .clear
  s1 := 0
  s2 := 0
  ptr := 0
  rem := 0
  head := 0
  chunk := 0
  vs1 := .zero
  vs2 := .zero
  inv := false
  seq := .idle
  faults := []
  refusalMark := false
  refusals := []
  mem := []
  unreadable := []
  inputs := []
  program := []
  replies := []
  draws := 0

end Sys2Proof.Machine
end

