-- ==== Sys2Proof/Machine/Ops.lean ====
section
/-! DEFINITION. Named operations on memory, registers and the safety record, which every meaning goes through. -/

namespace Sys2Proof.Machine

/-! ### Buffer memory -/

/-- What an address no cell lists reads as: DESIGN CHOICE, log entry 5, unsafe. -/
def unlistedByte : Byte := 0

/-- The byte at an address (20_memory.md R62). -/
def memByte : Memory → Nat → Byte
  | [], _ => unlistedByte
  | (a, b) :: rest, addr => if a = addr then b else memByte rest addr

/-- A cell put before a memory, unless it holds what an unlisted address reads as. -/
def consCell (addr : Nat) (b : Byte) (m : Memory) : Memory :=
  if b = unlistedByte then m else (addr, b) :: m

/-- The memory after a byte is written, in canonical form again. -/
def memPut : Memory → Nat → Byte → Memory
  | [], addr, b => consCell addr b []
  | (a, c) :: rest, addr, b =>
    if addr < a then consCell addr b ((a, c) :: rest)
    else if addr = a then consCell addr b rest
    else (a, c) :: memPut rest addr b

/-- The canonical form above a lower limit: addresses strictly rising, no entry equal to the unlisted byte. -/
def memWfFrom : Nat → Memory → Bool
  | _, [] => true
  | low, (a, b) :: rest => decide (low ≤ a) && decide (b ≠ unlistedByte) && memWfFrom (a + 1) rest

/-- The canonical form of a memory. -/
def Memory.wf (m : Memory) : Bool :=
  memWfFrom 0 m

/-- 2^ADDR_W, the size of buffer memory (20_memory.md R60). -/
def addrSpace (s : State) : Nat :=
  2 ^ s.cfg.addrW.bits

/-- 2^LEN_W. -/
def lenSpace (s : State) : Nat :=
  2 ^ s.cfg.lenW.bits

/-- A region holds an address. -/
def Region.covers (r : Region) (addr : Nat) : Bool :=
  decide (r.base ≤ addr) && decide (addr < r.base + r.size)

/-- The read port admits the byte at an address (20_memory.md R70). -/
def admitted (s : State) (addr : Nat) : Bool :=
  decide (addr < addrSpace s) && !(s.unreadable.any (fun r => r.covers addr))

/-- MemRead(addr, n): the n bytes in ascending address order, none where one is not admitted
(00_scope.md R24, 20_memory.md R62, R70). -/
def memRead (s : State) (addr : Nat) : Nat → Option (List Byte)
  | 0 => some []
  | n + 1 =>
    if admitted s addr then (memRead s (addr + 1) n).map (fun bs => memByte s.mem addr :: bs)
    else none

/-! ### Stores of narrowed values -/

/-- ptr <- v, of which ADDR_W bits are kept (10_state.md R39). -/
def setPtr (s : State) (v : Nat) : State :=
  { s with ptr := BitVec.ofNat 64 (v % addrSpace s) }

/-- rem <- v, of which LEN_W bits are kept (10_state.md R39). -/
def setRem (s : State) (v : Nat) : State :=
  { s with rem := BitVec.ofNat 64 (v % lenSpace s) }

/-- Advance ptr by n bytes and take n bytes off rem (10_state.md R39). -/
def consume (s : State) (n : Nat) : State :=
  setRem (setPtr s (s.ptr.toNat + n)) (s.rem.toNat + (lenSpace s - n))

/-! ### The safety record -/

/-- Add a reason to a set held as a list without repeats. -/
def addReason {α : Type} [DecidableEq α] (set : List α) (r : α) : List α :=
  if r ∈ set then set else set ++ [r]

/-- TAKING A FAULT: the reason enters the fault record and nothing else changes (60_exceptions.md R212).
Nothing traps and nothing returns (R214, R215), so this is the whole of it. -/
def recordFault (s : State) (r : FaultReason) : State :=
  { s with faults := addReason s.faults r }

/-- REFUSING an access: the refusal mark is set and the access has no other effect (60_exceptions.md R212). -/
def refuse (s : State) (r : RefusalReason) : State :=
  { s with refusalMark := true, refusals := addReason s.refusals r }

/-- The draw to be taken next: any 32-bit value (60_exceptions.md R212, log entry 7). -/
def nextDraw (s : State) : Word :=
  Config.draw s.draws

/-- A draw is taken. -/
def countDraw (s : State) : State :=
  { s with draws := s.draws + 1 }

/-- A host read returns a value. -/
def reply (s : State) (offset : Nat) (value : Word) : State :=
  { s with replies := s.replies ++ [⟨offset, value⟩] }

/-! ### The register file -/

/-- The offset of a slot from REG_BASE (10_state.md R30). -/
def slotOffset : Slot → Nat
  | .adlerIn => 0x00
  | .adlerOut => 0x04
  | .bufAddrLo => 0x08
  | .bufAddrHi => 0x0C
  | .bufLenLo => 0x10
  | .bufLenHi => 0x14
  | .cmd => 0x18
  | .status => 0x1C

/-- The slot at an offset; none at a reserved one (10_state.md R30, R37).
R37's reserved slots at 0x20 or above are those within the window, which R71 makes 32 bytes, so the spec says nothing of an
access there; that it counts as reserved at every offset from 0x20 up is DESIGN CHOICE, log entry 25, safe. -/
def slotAt (p : Params) (offset : Nat) : Option Slot :=
  if offset = 0x00 then some .adlerIn
  else if offset = 0x04 then some .adlerOut
  else if offset = 0x08 then some .bufAddrLo
  else if offset = 0x0C then (if p.addrW = .w64 then some .bufAddrHi else none)
  else if offset = 0x10 then some .bufLenLo
  else if offset = 0x14 then (if p.lenW = .w64 then some .bufLenHi else none)
  else if offset = 0x18 then some .cmd
  else if offset = 0x1C then some .status
  else none

/-- A host write stores a value in an input register and sets its mark (10_state.md R31 to R33, R43).
The three slots that are no input register keep the state. -/
def writeInput (s : State) (r : Slot) (v : Word) : State :=
  match r with
  | .adlerIn => { s with adlerIn := v, written := { s.written with adlerIn := true } }
  | .bufAddrLo => { s with bufAddrLo := v, written := { s.written with bufAddrLo := true } }
  | .bufAddrHi => { s with bufAddrHi := v, written := { s.written with bufAddrHi := true } }
  | .bufLenLo => { s with bufLenLo := v, written := { s.written with bufLenLo := true } }
  | .bufLenHi => { s with bufLenHi := v, written := { s.written with bufLenHi := true } }
  | .adlerOut => s
  | .cmd => s
  | .status => s

/-- PACK stores the result and sets its mark (10_state.md R36, R43). -/
def writeResult (s : State) (v : Word) : State :=
  { s with adlerOut := v, written := { s.written with adlerOut := true } }

/-- The first input register in use that is not written since reset, by its offset (60_exceptions.md R212, F1). -/
def firstUnwritten (s : State) : Option Nat :=
  if s.written.adlerIn = false then some 0x00
  else if s.written.bufAddrLo = false then some 0x08
  else if s.cfg.addrW = .w64 ∧ s.written.bufAddrHi = false then some 0x0C
  else if s.written.bufLenLo = false then some 0x10
  else if s.cfg.lenW = .w64 ∧ s.written.bufLenHi = false then some 0x14
  else none

/-! ### Reset -/

/-- The platform's reset event: the block takes the values of State.reset (10_state.md R48, 70_reset_and_hazards.md R240).
The values of unwritten state are DESIGN CHOICE, log entry 3, unsafe.
What is not the block's stays: parameters, memory, admission, and the model's own fields (log entry 18). -/
def resetBlock (s : State) : State :=
  { State.reset with
    cfg := s.cfg, mem := s.mem, unreadable := s.unreadable
    inputs := s.inputs, program := s.program, replies := s.replies, draws := s.draws }

end Sys2Proof.Machine
end

