-- ==== Sys2Proof/Machine/Operands.lean ====
section
/-! DEFINITION. Operands and datapath functions: the fields of the registers, head and chunk lengths, the byte lanes of a
vector read, HSUM, WSUM, FOLD, FOLD2 and MOD. -/

namespace Sys2Proof.Machine

/-! ### Halves of a word -/

/-- v[15:0], zero-extended (30_encoding.md R96). -/
def lowHalf (v : Word) : Word :=
  (v.extractLsb' 0 16).setWidth 32

/-- v[31:16], zero-extended (30_encoding.md R96). -/
def highHalf (v : Word) : Word :=
  (v.extractLsb' 16 16).setWidth 32

/-- (s2[15:0] << 16) | s1[15:0] (40_engine_update.md R128). -/
def packSums (s1 s2 : Word) : Word :=
  (lowHalf s2 <<< 16) ||| lowHalf s1

/-- A packed checksum has a component that is not below M (40_engine_update.md R131). -/
def priorInvalid (a : Word) : Bool :=
  decide (Config.modulus ≤ (lowHalf a).toNat) || decide (Config.modulus ≤ (highHalf a).toNat)

/-! ### BUF_ADDR, BUF_LEN and the lengths derived from them -/

/-- BUF_ADDR (10_state.md R32). -/
def bufAddr (s : State) : Nat :=
  match s.cfg.addrW with
  | .w32 => s.bufAddrLo.toNat
  | .w64 => (s.bufAddrHi ++ s.bufAddrLo).toNat

/-- BUF_LEN (10_state.md R33). -/
def bufLen (s : State) : Nat :=
  match s.cfg.lenW with
  | .w32 => s.bufLenLo.toNat
  | .w64 => (s.bufLenHi ++ s.bufLenLo).toNat

/-- An address lies in the buffer (20_memory.md R69, R74). -/
def inBuffer (s : State) (addr : Nat) : Bool :=
  decide (bufAddr s ≤ addr) && decide (addr < bufAddr s + bufLen s)

/-- The head length min(k, BUF_LEN) (40_engine_update.md R130). -/
def headLength (addr len : Nat) : Nat :=
  min ((Config.align - addr % Config.align) % Config.align) len

/-- The chunk length min(VNMAX, rem − rem mod W) (41_vector_reduce.md R165). -/
def chunkLength (p : Params) (rem : Nat) : Nat :=
  min p.vnmax (rem - rem % Config.width)

/-! ### A vector read -/

/-- Bytes packed with the first one in the low bits (00_scope.md R20). -/
def packBytes : List Byte → VecWord
  | [] => 0
  | b :: bs => (packBytes bs <<< 8) ||| b.setWidth 128

/-- A vector read packed as VEC_PACK says (00_scope.md R20). -/
def packVec (p : VecPack) (bs : List Byte) : VecWord :=
  match p with
  | .littleEndian => packBytes bs
  | .bigEndian => packBytes bs.reverse

/-- The byte at stream position k of a packed vector read (20_memory.md R63, 41_vector_reduce.md R161). -/
def vecByte (p : VecPack) (v : VecWord) (k : Nat) : Byte :=
  match p with
  | .littleEndian => v.extractLsb' (8 * k) 8
  | .bigEndian => v.extractLsb' (8 * (Config.width - 1 - k)) 8

/-- The byte at position g of lane l, as a 32-bit value (41_vector_reduce.md R161). -/
def laneByte (p : VecPack) (v : VecWord) (l g : Nat) : Word :=
  (vecByte p v (Config.group * l + g)).setWidth 32

/-- The weight W − k of the byte at position g of lane l (41_vector_reduce.md R161). -/
def laneWeight (l g : Nat) : Word :=
  BitVec.ofNat 32 (Config.width - (Config.group * l + g))

/-- HSUM_l (41_vector_reduce.md R162). -/
def hsum (p : VecPack) (v : VecWord) (l : Nat) : Word :=
  laneByte p v l 0 + laneByte p v l 1 + laneByte p v l 2 + laneByte p v l 3

/-- WSUM_l (41_vector_reduce.md R163). -/
def wsum (p : VecPack) (v : VecWord) (l : Nat) : Word :=
  laneWeight l 0 * laneByte p v l 0 + laneWeight l 1 * laneByte p v l 1
    + laneWeight l 2 * laneByte p v l 2 + laneWeight l 3 * laneByte p v l 3

/-! ### Lanes -/

/-- A function of the lane's number in every lane. -/
def lanesOf (f : Nat → Word) : Lanes :=
  ⟨f 0, f 1, f 2, f 3⟩

/-- A lane by its number; numbers above 3 name lane 3. -/
def Lanes.get (v : Lanes) : Nat → Word
  | 0 => v.l0
  | 1 => v.l1
  | 2 => v.l2
  | _ => v.l3

/-- The sum of the four lanes modulo 2^32 (41_vector_reduce.md R168). -/
def Lanes.sum (v : Lanes) : Word :=
  v.l0 + v.l1 + v.l2 + v.l3

/-! ### Range reduction -/

/-- FOLD(x) = x[15:0] + 15 · x[31:16] (42_modular_fold.md R190). -/
def fold (x : Word) : Word :=
  lowHalf x + 15 * highHalf x

/-- FOLD2(x) = FOLD(FOLD(x)) (42_modular_fold.md R193). -/
def fold2 (x : Word) : Word :=
  fold (fold x)

/-- FOLD2 in every lane (41_vector_reduce.md R167). -/
def foldLanes (v : Lanes) : Lanes :=
  lanesOf (fun l => fold2 (v.get l))

/-- MOD(x) = x mod 65521 (42_modular_fold.md R195). -/
def modM (x : Word) : Word :=
  BitVec.ofNat 32 (x.toNat % Config.modulus)

end Sys2Proof.Machine
end

