-- ==== Sys2Proof/Machine/Flags.lean ====
section
/-! DEFINITION. The only status bits, BUSY and DONE: there are no arithmetic flags (10_state.md R46). -/

namespace Sys2Proof.Machine

/-- STATUS as a read returns it: BUSY in bit 0, DONE in bit 1, bits 31 to 2 zero (10_state.md R35). -/
def statusWord (s : State) : Word :=
  (0 : BitVec 30) ++ BitVec.ofBool s.done ++ BitVec.ofBool s.busy

/-- Command acceptance: BUSY <- 1, DONE <- 0 (40_engine_update.md R123). -/
def setBusy (s : State) : State :=
  { s with busy := true, done := false }

/-- Completion: BUSY <- 0, DONE <- 1 (40_engine_update.md R128). -/
def setDone (s : State) : State :=
  { s with busy := false, done := true }

end Sys2Proof.Machine
end

