-- ==== Sys2Proof/Machine/Sequencer.lean ====
section
/-! DEFINITION. The sequencer: which micro-operation seq names, its successor, and the conditions under which the engine runs one. -/

namespace Sys2Proof.Machine

/-- The micro-operation that seq names (10_state.md R44). -/
def seqInstr : Seq → Option Instr
  | .idle => none
  | .unpack => some .unpack
  | .head => some .sbyte
  | .venter => some .venter
  | .vword => some .vword
  | .vfold => some .vfold
  | .vexit => some .vexit
  | .tail => some .sbyte
  | .finalmod => some .finalmod
  | .pack => some .pack

/-- The UOP code the sequencer issues to itself (30_encoding.md R90, R95). -/
def seqCode : Seq → Option Byte
  | .idle => none
  | .unpack => some 0x10
  | .head => some 0x11
  | .venter => some 0x20
  | .vword => some 0x21
  | .vfold => some 0x22
  | .vexit => some 0x23
  | .tail => some 0x11
  | .finalmod => some 0x12
  | .pack => some 0x13

/-- The successor of the micro-operation just done, from the state after its writes (40_engine_update.md R124). -/
def successor (was : Seq) (s : State) : Seq :=
  match was with
  | .idle => .idle
  | .unpack =>
    if s.rem.toNat = 0 then .pack
    else if 0 < s.head.toNat then .head
    else if Config.width ≤ s.rem.toNat then .venter
    else .tail
  | .head =>
    if 0 < s.head.toNat then .head
    else if Config.width ≤ s.rem.toNat then .venter
    else if 0 < s.rem.toNat then .tail
    else .finalmod
  | .venter => .vword
  | .vword => if 0 < s.chunk.toNat then .vword else .vfold
  | .vfold => if Config.width ≤ s.rem.toNat then .vword else .vexit
  | .vexit => if 0 < s.rem.toNat then .tail else .finalmod
  | .tail => if 0 < s.rem.toNat then .tail else .finalmod
  | .finalmod => .pack
  | .pack => .idle

/-- seq <- next per rule R124, after the writes of the micro-operation that seq still names. -/
def advance (s : State) : State :=
  { s with seq := successor s.seq s }

/-- The number of bytes that the micro-operation seq names reads at ptr (20_memory.md R67). -/
def readWidth : Seq → Nat
  | .idle => 0
  | .unpack => 0
  | .head => 1
  | .venter => 0
  | .vword => Config.width
  | .vfold => 0
  | .vexit => 0
  | .tail => 1
  | .finalmod => 0
  | .pack => 0

/-- S1, BUF_UNREADABLE: the ptr at which the engine is stuck, because the memory does not admit the read of the
micro-operation that seq names; none where the engine is not stuck (20_memory.md R70, 60_exceptions.md R212). -/
def stuckAt (s : State) : Option Long :=
  match memRead s s.ptr.toNat (readWidth s.seq) with
  | some _ => none
  | none => some s.ptr

/-- A micro-operation of the engine agent: it runs only while no fault is recorded (60_exceptions.md R212),
in an allowed configuration (41_vector_reduce.md R172), and when seq names it (40_engine_update.md, before R120). -/
def microOp (i : Instr) (s : State) (body : Out) : Out :=
  if s.faults ≠ [] then .fault .engineHalted
  else if s.cfg.wf = false then .refused (.badConfig .vnmax)
  else if seqInstr s.seq = some i then body
  else .fault (.notSelected i)

end Sys2Proof.Machine
end

