-- ==== Sys2Proof/Machine/Scalar.lean ====
section
/-! DEFINITION. The scalar micro-operations UNPACK, SBYTE, FINALMOD and PACK. -/

namespace Sys2Proof.Machine

/-- The writes of UNPACK on a range that does not wrap, but for seq (40_engine_update.md R125). -/
def unpackWrites (s : State) : State :=
  { setRem (setPtr s (bufAddr s)) (bufLen s) with
    s1 := lowHalf s.adlerIn
    s2 := highHalf s.adlerIn
    inv := decide (0 < bufLen s) && priorInvalid s.adlerIn
    head := BitVec.ofNat 5 (headLength (bufAddr s) (bufLen s)) }

/-- UNPACK (40_engine_update.md R125). On a wrapping range it faults and writes nothing else
(60_exceptions.md R212, log entry 10). -/
def execUnpack (s : State) : Out :=
  microOp .unpack s <|
    if addrSpace s < bufAddr s + bufLen s then .next (recordFault s (.bufWrap (bufAddr s) (bufLen s)))
    else .next (advance (unpackWrites s))

/-- The writes of SBYTE for a byte read, but for seq (40_engine_update.md R126). -/
def sbyteWrites (s : State) (b : Byte) : State :=
  { consume s 1 with
    s1 := s.s1 + b.setWidth 32
    s2 := s.s2 + (s.s1 + b.setWidth 32)
    head := if s.seq = .head then s.head - 1 else s.head }

/-- SBYTE, at HEAD and at TAIL (40_engine_update.md R126). On a byte that is not admitted the engine is stuck: it has no
step, so nothing changes until the memory admits the read (20_memory.md R70, 60_exceptions.md R212 S1, log entry 13). -/
def execSbyte (s : State) : Out :=
  microOp .sbyte s <|
    match (memRead s s.ptr.toNat 1).bind List.head? with
    | some b => .next (advance (sbyteWrites s b))
    | none => .next s

/-- FINALMOD (40_engine_update.md R127). -/
def execFinalmod (s : State) : Out :=
  microOp .finalmod s <|
    .next (advance { s with s1 := modM s.s1, s2 := modM s.s2 })

/-- ADLER_OUT as PACK writes it: a draw under ANY with an invalid prior, else the packed sums (40_engine_update.md R128, R131). -/
def packResult (s : State) : State :=
  if s.cfg.priorPolicy = .any ∧ s.inv then writeResult (countDraw s) (nextDraw s)
  else writeResult s (packSums s.s1 s.s2)

/-- PACK (40_engine_update.md R128). -/
def execPack (s : State) : Out :=
  microOp .pack s <|
    .next (advance (setDone (packResult s)))

end Sys2Proof.Machine
end

