-- ==== Sys2Proof/Machine/Update.lean ====
section
/-! DEFINITION. The host command UPDATE. -/

namespace Sys2Proof.Machine

/-- UPDATE (40_engine_update.md R123), the CMD word 0x00000001 having been decoded.
A configuration that is not allowed is refused before anything else (41_vector_reduce.md R172, log entry 12). -/
def execUpdate (s : State) : Out :=
  if s.cfg.wf = false then .next (refuse s (.badConfig .vnmax))
  else if s.busy then .next (recordFault s .cmdWhileBusy)
  else match firstUnwritten s with
    | some offset => .next (recordFault s (.unwrittenInput offset))
    | none => .next { setBusy s with seq := .unpack }

end Sys2Proof.Machine
end

