-- ==== Sys2Proof/Machine/Vector.lean ====
section
/-! DEFINITION. The vector micro-operations VENTER, VWORD, VFOLD and VEXIT. -/

namespace Sys2Proof.Machine

/-- chunk <- min(VNMAX, rem − rem mod W) (41_vector_reduce.md R165). -/
def startChunk (s : State) : State :=
  { s with chunk := BitVec.ofNat 14 (chunkLength s.cfg s.rem.toNat) }

/-- VENTER (41_vector_reduce.md R164). -/
def execVenter (s : State) : Out :=
  microOp .venter s <|
    .next (advance (startChunk { s with vs1 := ⟨fold2 s.s1, 0, 0, 0⟩, vs2 := ⟨fold2 s.s2, 0, 0, 0⟩ }))

/-- vs2 after a vector read: it takes W times the old vs1 and WSUM in every lane (41_vector_reduce.md R166). -/
def weightedLanes (s : State) (v : VecWord) : Lanes :=
  lanesOf (fun l => s.vs2.get l + BitVec.ofNat 32 Config.width * s.vs1.get l + wsum s.cfg.vecPack v l)

/-- vs1 after a vector read: it takes HSUM in every lane (41_vector_reduce.md R166). -/
def unweightedLanes (s : State) (v : VecWord) : Lanes :=
  lanesOf (fun l => s.vs1.get l + hsum s.cfg.vecPack v l)

/-- The writes of VWORD for a vector read, but for seq (41_vector_reduce.md R166). -/
def vwordWrites (s : State) (v : VecWord) : State :=
  { consume s Config.width with
    vs2 := weightedLanes s v
    vs1 := unweightedLanes s v
    chunk := s.chunk - BitVec.ofNat 14 Config.width }

/-- VWORD (41_vector_reduce.md R166). On a byte that is not admitted the engine is stuck: it has no step, so nothing changes
until the memory admits the read (20_memory.md R70, 60_exceptions.md R212 S1, log entry 13). -/
def execVword (s : State) : Out :=
  microOp .vword s <|
    match memRead s s.ptr.toNat Config.width with
    | some bytes => .next (advance (vwordWrites s (packVec s.cfg.vecPack bytes)))
    | none => .next s

/-- Both accumulators folded (41_vector_reduce.md R167). -/
def foldBoth (s : State) : State :=
  { s with vs1 := foldLanes s.vs1, vs2 := foldLanes s.vs2 }

/-- VFOLD (41_vector_reduce.md R167). -/
def execVfold (s : State) : Out :=
  microOp .vfold s <|
    .next (advance (if Config.width ≤ s.rem.toNat then startChunk (foldBoth s) else foldBoth s))

/-- VEXIT (41_vector_reduce.md R168). -/
def execVexit (s : State) : Out :=
  microOp .vexit s <|
    .next (advance { s with s1 := s.vs1.sum, s2 := s.vs2.sum })

end Sys2Proof.Machine
end

