-- ==== Sys2Proof/Machine/Dispatch.lean ====
section
/-! DEFINITION. One arm per instruction. -/

namespace Sys2Proof.Machine

def exec (i : Instr) (s : State) : Host.Outcome State Fault Refusal :=
  match i with
  | .update => Sys2Proof.Machine.execUpdate s
  | .unpack => Sys2Proof.Machine.execUnpack s
  | .sbyte => Sys2Proof.Machine.execSbyte s
  | .finalmod => Sys2Proof.Machine.execFinalmod s
  | .pack => Sys2Proof.Machine.execPack s
  | .venter => Sys2Proof.Machine.execVenter s
  | .vword => Sys2Proof.Machine.execVword s
  | .vfold => Sys2Proof.Machine.execVfold s
  | .vexit => Sys2Proof.Machine.execVexit s

end Sys2Proof.Machine
end

