-- ==== Sys2Proof/Machine/Agents.lean ====
section
/-! DEFINITION. The agents' steps: a host register access, the issue of a micro-operation, a memory write, a change of
admission, a reset, a line of the host's program; and whose step is next. -/

namespace Sys2Proof.Machine

/-! ### Running a code -/

/-- A decoded code runs; a rejected one is refused by its name (30_encoding.md R93, R95). -/
def runDecoded (d : Decoded) (s : State) : Out :=
  match d with
  | .instr i => exec i s
  | .reservedCmd w => .next (refuse s (.reservedCmd w))
  | .unknownUop c => .next (refuse s (.unknownUop c))

/-! ### The host -/

/-- A write of an input register (10_state.md R31 to R33, 70_reset_and_hazards.md R244). -/
def writeInputReg (s : State) (r : Slot) (offset : Nat) (v : Word) : Out :=
  if s.busy then .next (recordFault s (.writeWhileBusy offset))
  else .next (writeInput s r v)

/-- A write to a slot (10_state.md R30, 60_exceptions.md R213 ranks 3 to 6); a CMD write starts the command it encodes (R34). -/
def writeSlot (s : State) (r : Slot) (offset : Nat) (v : Word) : Out :=
  match r with
  | .adlerIn => writeInputReg s .adlerIn offset v
  | .bufAddrLo => writeInputReg s .bufAddrLo offset v
  | .bufAddrHi => writeInputReg s .bufAddrHi offset v
  | .bufLenLo => writeInputReg s .bufLenLo offset v
  | .bufLenHi => writeInputReg s .bufLenHi offset v
  | .cmd => runDecoded (decode (.cmd v)) s
  | .adlerOut => .next (refuse s (.writeToRo offset))
  | .status => .next (refuse s (.writeToRo offset))

/-- A read of a register that faults unless it has a value since reset (10_state.md R31 to R33). -/
def readMarked (s : State) (offset : Nat) (mark : Bool) (v : Word) : Out :=
  if mark then .next (reply s offset v)
  else .next (recordFault s (.unwrittenRead offset))

/-- A read of a slot (10_state.md R31 to R36). ADLER_OUT while BUSY is a draw, also before the first PACK (log entry 9). -/
def readSlot (s : State) (r : Slot) (offset : Nat) : Out :=
  match r with
  | .adlerIn => readMarked s offset s.written.adlerIn s.adlerIn
  | .bufAddrLo => readMarked s offset s.written.bufAddrLo s.bufAddrLo
  | .bufAddrHi => readMarked s offset s.written.bufAddrHi s.bufAddrHi
  | .bufLenLo => readMarked s offset s.written.bufLenLo s.bufLenLo
  | .bufLenHi => readMarked s offset s.written.bufLenHi s.bufLenHi
  | .adlerOut =>
    if s.busy then .next (reply (countDraw s) offset (nextDraw s))
    else readMarked s offset s.written.adlerOut s.adlerOut
  | .status => .next (reply s offset (statusWord s))
  | .cmd => .next (refuse s (.readOfWo offset))

/-- A host register access, its reasons checked in the order of 60_exceptions.md R213. -/
def hostAccess (a : Access) (s : State) : Out :=
  if a.wf = false then .next (refuse s (.badAccess a.offset a.width))
  else match slotAt s.cfg a.offset with
    | none => .next (refuse s (.reservedOffset a.offset))
    | some r => match a with
      | .write _ offset v => writeSlot s r offset v
      | .read _ offset => readSlot s r offset

/-! ### The engine -/

/-- The code the engine issues now: none at IDLE (10_state.md R44), and none after a fault or while the engine is stuck
(60_exceptions.md R212). -/
def issued (s : State) : Option Byte :=
  if s.faults = [] ∧ stuckAt s = none then seqCode s.seq else none

/-- The engine's turn: the issued code is decoded and run; with none the engine has no step and the machine waits (log entry 13). -/
def engineTurn (s : State) : Out :=
  match issued s with
  | none => .next s
  | some c => runDecoded (decode (.uop c)) s

/-! ### The platform -/

/-- A write of a byte of buffer memory (20_memory.md R74, 60_exceptions.md R212 X8).
Admission is of reads (R70, R72), and the spec says nothing of a write to a byte the read port does not admit: that such a
write stores its byte is DESIGN CHOICE, log entry 28, unsafe. -/
def memoryWrite (addr : Nat) (b : Byte) (s : State) : Out :=
  if addrSpace s ≤ addr then .fault (.noSuchAddress addr)
  else if s.busy && inBuffer s addr then .next (refuse s (.bufWriteWhileBusy addr))
  else .next { s with mem := memPut s.mem addr b }

/-! ### The host's program -/

/-- The value that an access from s to t returned to the host; none where it returned none. -/
def readValue (s t : State) : Option Word :=
  (t.replies[s.replies.length]?).map Reply.value

/-- The host's own doing after an access that answered. -/
def andThen (o : Out) (f : State → State) : Out :=
  match o with
  | .next t => .next (f t)
  | .fault r => .fault r
  | .refused r => .refused r

/-- Bit 1, DONE, of the value read is 1 (30_encoding.md R100). -/
def readsDone (v : Option Word) : Bool :=
  (v.map (fun w => w.getLsbD 1)).getD false

/-- After a poll from s to t: WAITDONE stays the host's next line until the value read has DONE = 1 (30_encoding.md R100). -/
def afterPoll (s t : State) : State :=
  if readsDone (readValue s t) then t else { t with program := .waitDone :: t.program }

/-- After CHAIN's read from s to t: the write of the value read to ADLER_IN is the host's next line (30_encoding.md R100).
Where the read returned no value the value written is a draw: DESIGN CHOICE, log entry 27. -/
def afterResult (s t : State) : State :=
  match readValue s t with
  | some v => { t with program := .wr .adlerIn v :: t.program }
  | none => { countDraw t with program := .wr .adlerIn (nextDraw t) :: t.program }

/-- One line of the host's program, already taken off it, is performed (30_encoding.md R99 to R101). -/
def hostLine (op : HostOp) (s : State) : Out :=
  match op with
  | .wr r v => hostAccess (.write 32 (slotOffset r) v) s
  | .rd r => hostAccess (.read 32 (slotOffset r)) s
  | .waitDone => andThen (hostAccess (.read 32 (slotOffset .status)) s) (afterPoll s)
  | .chain => andThen (hostAccess (.read 32 (slotOffset .adlerOut)) s) (afterResult s)
  | .store addr b => memoryWrite addr b s

/-- The host's turn: the next line leaves its program and is performed; with none left the host has no step. -/
def hostTurn (s : State) : Out :=
  match s.program with
  | [] => .next s
  | op :: rest => hostLine op { s with program := rest }

/-! ### Whose step is next -/

/-- One pending step is performed. -/
def perform (x : Input) (s : State) : Out :=
  match x with
  | .engine => engineTurn s
  | .host => hostTurn s
  | .access a => hostAccess a s
  | .memWrite addr b => memoryWrite addr b s
  | .admission rs => .next { s with unreadable := rs }
  | .reset => .next (resetBlock s)

/-- The first pending step leaves the list and is performed; with none pending the engine takes its step,
and the host where the engine has none (log entry 1). -/
def turn (s : State) : Out :=
  match s.inputs with
  | [] => if issued s = none then hostTurn s else engineTurn s
  | x :: rest => perform x { s with inputs := rest }

/-! ### Placing an instruction where the next step fetches it -/

/-- The value of seq that names a micro-operation; SBYTE stands at HEAD while head bytes are left, else at TAIL. -/
def seqFor (i : Instr) (s : State) : Seq :=
  match i with
  | .update => s.seq
  | .unpack => .unpack
  | .sbyte => if 0 < s.head.toNat then .head else .tail
  | .finalmod => .finalmod
  | .pack => .pack
  | .venter => .venter
  | .vword => .vword
  | .vfold => .vfold
  | .vexit => .vexit

/-- A code put where the next step fetches it (log entry 16): a CMD word as the host's next write to CMD,
a UOP code as the one seq names, with the engine's turn next. A code the table does not hold leaves the sequencer as it is. -/
def placeCode (s : State) (c : Code) : State :=
  match c with
  | .cmd w => { s with inputs := .access (.write 32 (slotOffset .cmd) w) :: s.inputs }
  | .uop _ => match decode c with
    | .instr i => { s with seq := seqFor i s, inputs := .engine :: s.inputs }
    | .reservedCmd _ => s
    | .unknownUop _ => s

end Sys2Proof.Machine
end

