-- ==== Sys2Proof/Machine/Step.lean ====
section
/-! DEFINITION. One step of the machine, and the placing of an instruction for the next step. -/

namespace Sys2Proof.Machine

/-- One step: the agent whose turn it is performs one atomic step (70_reset_and_hazards.md R246). -/
def step (s : State) : Host.Outcome State Fault Refusal :=
  turn s

/-- The state with an opcode-table row's instruction placed where the next step fetches it (log entry 16). -/
def State.withFetchWord (s : State) (nbits w : Nat) : State :=
  match tableCode nbits w with
  | some c => placeCode s c
  | none => s

end Sys2Proof.Machine
end

