-- ==== Sys2Proof/Machine/HostProgram.lean ====
section
/-! DEFINITION. The host's pseudo-instructions as lines of its program, and the bus address of a slot. -/

namespace Sys2Proof.Machine

/-- `UPDATE <a>, <addr>, <len>`: the writes of the registers in use, then the command (30_encoding.md R100). -/
def updateAccesses (p : Params) (a : Word) (addr len : Long) : List HostOp :=
  [.wr .adlerIn a, .wr .bufAddrLo (addr.extractLsb' 0 32)]
    ++ (if p.addrW = .w64 then [.wr .bufAddrHi (addr.extractLsb' 32 32)] else [])
    ++ [.wr .bufLenLo (len.extractLsb' 0 32)]
    ++ (if p.lenW = .w64 then [.wr .bufLenHi (len.extractLsb' 32 32)] else [])
    ++ [.wr .cmd 1]

/-- `WAITDONE`: one line, which stays until a poll reads DONE = 1 (30_encoding.md R100). -/
def waitDone : List HostOp :=
  [.waitDone]

/-- `GETSUM` (30_encoding.md R100). -/
def getSum : List HostOp :=
  [.rd .adlerOut]

/-- `CHAIN`: one line, whose read is followed by the write of the value it returned (30_encoding.md R100). -/
def chain : List HostOp :=
  [.chain]

/-- The bus address of a slot (20_memory.md R71). -/
def busAddress (p : Params) (r : Slot) : Nat :=
  p.regBase + slotOffset r

end Sys2Proof.Machine
end

