-- ==== Sys2Proof/Safety.lean ====
section
/-! DEFINITION. The terms claims use: the reference checksum, the byte stream of an UPDATE, the end of a run,
and what holds of the engine in every state of a run. -/

namespace Sys2Proof

open Machine

/-! ### The reference checksum -/

/-- One byte of the recurrence s1 += byte, s2 += s1, both modulo M (40_engine_update.md R120). -/
def adlerByte (p : Nat × Nat) (b : Byte) : Nat × Nat :=
  let t := (p.1 + b.toNat) % Config.modulus
  (t, (p.2 + t) % Config.modulus)

/-- The halves (s1, s2) of a packed checksum as naturals (40_engine_update.md R120). -/
def halves (a : Word) : Nat × Nat :=
  (a.toNat % 2 ^ 16, a.toNat / 2 ^ 16)

/-- Adler(a, B) (40_engine_update.md R120). -/
def adler (a : Word) (bytes : List Byte) : Word :=
  let p := bytes.foldl adlerByte (halves a)
  BitVec.ofNat 32 (p.2 * 2 ^ 16 + p.1)

/-- One byte of the recurrence with no reduction (41_vector_reduce.md R171). -/
def rawByte (p : Nat × Nat) (b : Byte) : Nat × Nat :=
  (p.1 + b.toNat, p.2 + (p.1 + b.toNat))

/-- The unreduced sums T1 and T2 after some bytes (41_vector_reduce.md R171). -/
def rawSums (a : Word) (bytes : List Byte) : Nat × Nat :=
  bytes.foldl rawByte (halves a)

/-- Congruence modulo M. -/
abbrev Cong (x y : Nat) : Prop :=
  x % Config.modulus = y % Config.modulus

/-! ### The buffer of an UPDATE -/

/-- The byte B[i] of the stream (20_memory.md R62). -/
def streamByte (s : State) (i : Nat) : Byte :=
  memByte s.mem (bufAddr s + i)

/-- The first m bytes of the stream. -/
def streamTake (s : State) (m : Nat) : List Byte :=
  (List.range m).map (streamByte s)

/-- The byte stream B of an UPDATE (20_memory.md R62). -/
def stream (s : State) : List Byte :=
  streamTake s (bufLen s)

/-- Every byte of the buffer is admitted (20_memory.md R70). -/
abbrev BufferAdmitted (s : State) : Prop :=
  ∀ i, i < bufLen s → admitted s (bufAddr s + i) = true

/-- The buffer ends inside the address space (20_memory.md R70). -/
abbrev NoWrap (s : State) : Prop :=
  bufAddr s + bufLen s ≤ addrSpace s

/-- The number of bytes read so far. -/
def consumed (s : State) : Nat :=
  bufLen s - s.rem.toNat

/-- T1 and T2 after the bytes read so far. -/
def target (s : State) : Nat × Nat :=
  rawSums s.adlerIn (streamTake s (consumed s))

/-- The number of micro-operations from acceptance to PACK, both counted (40_engine_update.md R136). -/
def updateSteps (s : State) : Nat :=
  let n := bufLen s
  if n = 0 then 2
  else
    let h := headLength (bufAddr s) n
    let r := n - h
    let nw := r / Config.width
    let t := r - nw * Config.width
    let cpw := s.cfg.vnmax / Config.width
    let nc := (nw + cpw - 1) / cpw
    1 + h + (if 0 < nw then 1 + nw + nc + 1 else 0) + t + 2

/-! ### Whose turn the next step is -/

/-- The next step is the engine's turn, taken on u: it stands first in the pending list, or nothing is pending and the
engine has a step (log entry 1). -/
abbrev EngineTurn (s u : State) : Prop :=
  (s.inputs = [] ∧ issued s ≠ none ∧ u = s) ∨ ∃ rest, s.inputs = .engine :: rest ∧ u = { s with inputs := rest }

/-- The next step is the host's turn, taken on u: it stands first in the pending list, or nothing is pending and the
engine has no step (log entry 1). -/
abbrev HostTurn (s u : State) : Prop :=
  (s.inputs = [] ∧ issued s = none ∧ u = s) ∨ ∃ rest, s.inputs = .host :: rest ∧ u = { s with inputs := rest }

/-! ### The end of a run -/

/-- A run ends: seq = IDLE, DONE = 1, no fault recorded, refusal mark clear (70_reset_and_hazards.md R248). -/
abbrev Final (s : State) : Prop :=
  s.seq = .idle ∧ s.done = true ∧ s.faults = [] ∧ s.refusalMark = false

/-- Two states that a host cannot tell apart: they agree on all but the engine's working state
s1, s2, ptr, rem, head, chunk, vs1, vs2, inv and seq (10_state.md R47). -/
def SameToHost (s t : State) : Prop :=
  t = { s with
    s1 := t.s1, s2 := t.s2, ptr := t.ptr, rem := t.rem, head := t.head, chunk := t.chunk
    vs1 := t.vs1, vs2 := t.vs2, inv := t.inv, seq := t.seq }

/-! ### The engine invariant -/

/-- BUSY is 0 exactly when seq is IDLE, and BUSY and DONE are never both 1 (10_state.md R35, R47). -/
abbrev StatusInv (s : State) : Prop :=
  (s.busy = false ↔ s.seq = .idle) ∧ ¬(s.busy = true ∧ s.done = true)

/-- Every DONE result has its mark: once DONE is 1, ADLER_OUT holds a result (10_state.md R35, R43). -/
abbrev DoneInv (s : State) : Prop :=
  s.done = true → s.written.adlerOut = true

/-- While BUSY, every input register in use is written (40_engine_update.md R123, 70_reset_and_hazards.md R244). -/
abbrev InputsInv (s : State) : Prop :=
  s.busy = true → firstUnwritten s = none

/-- The refusal mark is set exactly when a reason is recorded (log entry 20). -/
abbrev MarkInv (s : State) : Prop :=
  s.refusalMark = true ↔ s.refusals ≠ []

/-- After UNPACK: the range does not wrap, ptr stands at the next byte to read, and inv is as R42 says (10_state.md R39, R42). -/
abbrev Placed (s : State) : Prop :=
  NoWrap s ∧ s.rem.toNat ≤ bufLen s
    ∧ s.ptr.toNat = (bufAddr s + consumed s) % addrSpace s
    ∧ s.inv = (decide (0 < bufLen s) && priorInvalid s.adlerIn)

/-- s1 and s2 are the unreduced scalar sums. -/
abbrev SumsExact (s : State) : Prop :=
  s.s1.toNat = (target s).1 ∧ s.s2.toNat = (target s).2

/-- s1 and s2 are congruent to the scalar sums. -/
abbrev SumsCong (s : State) : Prop :=
  Cong s.s1.toNat (target s).1 ∧ Cong s.s2.toNat (target s).2

/-- The lane sums are congruent to the scalar sums (41_vector_reduce.md R171). -/
abbrev LanesCong (s : State) : Prop :=
  Cong (s.vs1.l0.toNat + s.vs1.l1.toNat + s.vs1.l2.toNat + s.vs1.l3.toNat) (target s).1
    ∧ Cong (s.vs2.l0.toNat + s.vs2.l1.toNat + s.vs2.l2.toNat + s.vs2.l3.toNat) (target s).2

/-- n more scalar bytes keep the sums at or below the limits (40_engine_update.md R126). -/
abbrev ScalarRoom (s : State) (n limit1 limit2 : Nat) : Prop :=
  s.s1.toNat + 255 * n ≤ limit1
    ∧ s.s2.toNat + n * s.s1.toNat + 255 * (n * (n + 1) / 2) ≤ limit2

/-- A lane pair with j reads of the chunk left stays within the bounds of 41_vector_reduce.md R169 and R170. -/
abbrev LaneRoom (p : Params) (j : Nat) (v1 v2 : Word) : Prop :=
  v1.toNat + 1020 * j ≤ Config.laneStart + 1020 * (p.vnmax / Config.width)
    ∧ v2.toNat + 16 * (j * v1.toNat) + 16320 * (j * (j - 1) / 2) + 14790 * j
        ≤ chunkBound (p.vnmax / Config.width)

/-- LaneRoom in every lane. -/
abbrev LanesRoom (s : State) : Prop :=
  LaneRoom s.cfg (s.chunk.toNat / Config.width) s.vs1.l0 s.vs2.l0
    ∧ LaneRoom s.cfg (s.chunk.toNat / Config.width) s.vs1.l1 s.vs2.l1
    ∧ LaneRoom s.cfg (s.chunk.toNat / Config.width) s.vs1.l2 s.vs2.l2
    ∧ LaneRoom s.cfg (s.chunk.toNat / Config.width) s.vs1.l3 s.vs2.l3

/-- Every lane is at most X0 (42_modular_fold.md R193). -/
abbrev LanesFolded (v : Lanes) : Prop :=
  v.l0.toNat ≤ Config.laneStart ∧ v.l1.toNat ≤ Config.laneStart
    ∧ v.l2.toNat ≤ Config.laneStart ∧ v.l3.toNat ≤ Config.laneStart

/-- The next read address is a multiple of A (20_memory.md R65). -/
abbrev Aligned (s : State) : Prop :=
  s.ptr.toNat % Config.align = 0

/-- What holds when the named micro-operation is next (20_memory.md R65, R69, 40_engine_update.md R126,
41_vector_reduce.md R169 to R171). -/
def PhaseInv (s : State) : Prop :=
  match s.seq with
  | .idle => True
  | .unpack => True
  | .head =>
    Placed s ∧ 0 < s.head.toNat ∧ s.head.toNat < Config.align ∧ s.head.toNat ≤ s.rem.toNat
      ∧ (s.rem.toNat = s.head.toNat ∨ (s.ptr.toNat + s.head.toNat) % Config.align = 0)
      ∧ SumsExact s ∧ ScalarRoom s s.head.toNat 69360 1079160
  | .venter =>
    Placed s ∧ Aligned s ∧ Config.width ≤ s.rem.toNat ∧ SumsExact s ∧ ScalarRoom s 0 69360 1079160
  | .vword =>
    Placed s ∧ Aligned s ∧ Config.width ≤ s.chunk.toNat ∧ s.chunk.toNat % Config.width = 0
      ∧ s.chunk.toNat ≤ s.rem.toNat ∧ s.chunk.toNat ≤ s.cfg.vnmax ∧ LanesCong s ∧ LanesRoom s
  | .vfold => Placed s ∧ Aligned s ∧ 0 < bufLen s ∧ s.chunk.toNat = 0 ∧ LanesCong s
  | .vexit =>
    Placed s ∧ Aligned s ∧ s.rem.toNat < Config.width ∧ 0 < bufLen s ∧ LanesCong s
      ∧ LanesFolded s.vs1 ∧ LanesFolded s.vs2
  | .tail =>
    Placed s ∧ 0 < s.rem.toNat ∧ s.rem.toNat < Config.width ∧ SumsCong s
      ∧ ScalarRoom s s.rem.toNat 266805 4238280
  | .finalmod => Placed s ∧ s.rem.toNat = 0 ∧ 0 < bufLen s ∧ SumsCong s
  | .pack =>
    Placed s ∧ s.rem.toNat = 0 ∧ packSums s.s1 s.s2 = adler s.adlerIn (stream s)
      ∧ s.s1.toNat < 2 ^ 16 ∧ s.s2.toNat < 2 ^ 16
      ∧ (0 < bufLen s → s.s1.toNat < Config.modulus ∧ s.s2.toNat < Config.modulus)

/-- The invariant of the machine: the status bits follow seq, and the phase's facts hold. -/
def EngineInv (s : State) : Prop :=
  StatusInv s ∧ DoneInv s ∧ InputsInv s ∧ MarkInv s ∧ PhaseInv s

end Sys2Proof
end

