-- ==== Sys2Proof/Certificates/Slice0/Obligations.lean ====
section
/-! DEFINITION. The statements for the provers, each with the rule of spec/ it formalises. -/

open Sys2Proof Sys2Proof.Machine

/-! ### Encoding and the step -/

/-- The command word of R92 and the eight codes of R95, written out bit by bit, decode to their instructions. -/
def Obligations.SpecCodesDecodeToTheirInstr : Prop :=
  decode (.cmd 0b00000000000000000000000000000001) = .instr .update
    ∧ decode (.uop 0b00010000) = .instr .unpack ∧ decode (.uop 0b00010001) = .instr .sbyte
    ∧ decode (.uop 0b00010010) = .instr .finalmod ∧ decode (.uop 0b00010011) = .instr .pack
    ∧ decode (.uop 0b00100000) = .instr .venter ∧ decode (.uop 0b00100001) = .instr .vword
    ∧ decode (.uop 0b00100010) = .instr .vfold ∧ decode (.uop 0b00100011) = .instr .vexit

/-- A code decodes to an instruction exactly when it is that instruction's code, and exactly the codes whose fields
are well formed decode (30_encoding.md R91 to R95). -/
def Obligations.DecodeAcceptsOnlyTheTable : Prop :=
  (∀ c i, decode c = .instr i ↔ c = encode i) ∧ ∀ c, c.wf = true ↔ ∃ i, decode c = .instr i

/-- A host's aligned 32-bit write of a word to CMD that decodes to an instruction runs it on the state from which
the access has left the pending list (10_state.md R34, 40_engine_update.md R123). A step performs every other pending
register access, memory write and change of admission too, and on the host's turn the next line of its program, WR, RD or
a memory write, each on the state it has left (30_encoding.md R99, R101, 20_memory.md R76, 70_reset_and_hazards.md R246).
WAITDONE and CHAIN stand in StatusReadReturnsBusyAndDone and ResultReadOutcome. The pending list and the program are the
model's form of the agents (log entries 1 and 26). -/
def Obligations.StepRunsDecodedCommand : Prop :=
  (∀ s rest w i, s.inputs = .access (.write 32 0x18 w) :: rest → decode (.cmd w) = .instr i →
    step s = exec i { s with inputs := rest })
  ∧ (∀ s a rest, s.inputs = .access a :: rest → step s = hostAccess a { s with inputs := rest })
  ∧ (∀ s addr b rest, s.inputs = .memWrite addr b :: rest → step s = memoryWrite addr b { s with inputs := rest })
  ∧ (∀ s rs rest, s.inputs = .admission rs :: rest → step s = .next { s with inputs := rest, unreadable := rs })
  ∧ ∀ s u, HostTurn s u →
    (u.program = [] → step s = .next u)
    ∧ (∀ r v rest, u.program = .wr r v :: rest →
      step s = hostAccess (.write 32 (slotOffset r) v) { u with program := rest })
    ∧ (∀ r rest, u.program = .rd r :: rest → step s = hostAccess (.read 32 (slotOffset r)) { u with program := rest })
    ∧ ∀ addr b rest, u.program = .store addr b :: rest → step s = memoryWrite addr b { u with program := rest }

/-- On the engine's turn, with no fault recorded and the engine not stuck, the code the sequencer issues is decoded and the
decoded micro-operation runs (10_state.md R44, 30_encoding.md R90, 60_exceptions.md R212, 70_reset_and_hazards.md R246).
The turn comes from an empty pending list or from its head, which is the model's form of the interleaving (log entry 1). -/
def Obligations.StepRunsDecodedMicroOp : Prop :=
  ∀ s u c i, (s.inputs = [] ∧ u = s ∨ ∃ rest, s.inputs = .engine :: rest ∧ u = { s with inputs := rest }) →
    s.faults = [] → stuckAt s = none → seqCode s.seq = some c → decode (.uop c) = .instr i → step s = exec i u

/-- With seq = IDLE, a fault recorded or the engine stuck on a read that is not admitted, the engine has no step: on its turn
nothing changes but the pending list, and with nothing pending the step is the host's, which changes nothing when no line of
its program is left (10_state.md R44, 20_memory.md R70, 60_exceptions.md R212; that the machine then waits, or the host goes
on, is log entries 1 and 13). -/
def Obligations.EngineWaitsAtIdleOrAfterFault : Prop :=
  ∀ s, s.seq = .idle ∨ s.faults ≠ [] ∨ stuckAt s ≠ none →
    (∀ rest, s.inputs = .engine :: rest → step s = .next { s with inputs := rest })
    ∧ (s.inputs = [] → step s = hostTurn s ∧ (s.program = [] → step s = .next s))

/-- A micro-operation that answers a next state was named by seq, with no fault recorded and an allowed configuration
(40_engine_update.md, before R120; 60_exceptions.md R212; 41_vector_reduce.md R172). -/
def Obligations.MicroOpRunsOnlyWhenNamed : Prop :=
  ∀ i s t, i ≠ .update → exec i s = .next t → seqInstr s.seq = some i ∧ s.faults = [] ∧ s.cfg.wf = true

/-! ### The command -/

/-- Every CMD word other than 0x00000001 is refused: the mark is set, the reason recorded, and nothing else changes
(30_encoding.md R93). -/
def Obligations.ReservedCommandRefused : Prop :=
  ∀ s rest v, s.inputs = .access (.write 32 0x18 v) :: rest → v ≠ 1 →
    step s = .next { s with
      inputs := rest, refusalMark := true, refusals := addReason s.refusals (.reservedCmd v) }

/-- A write to CMD has the outcome of the pseudocode of R123, its checks in that order (40_engine_update.md R123). -/
def Obligations.UpdateCommandOutcome : Prop :=
  ∀ s v, s.cfg.wf = true →
    hostAccess (.write 32 0x18 v) s =
      if v ≠ 0x00000001 then
        .next { s with refusalMark := true, refusals := addReason s.refusals (.reservedCmd v) }
      else if s.busy = true then .next { s with faults := addReason s.faults .cmdWhileBusy }
      else if s.written.adlerIn = false then .next { s with faults := addReason s.faults (.unwrittenInput 0x00) }
      else if s.written.bufAddrLo = false then .next { s with faults := addReason s.faults (.unwrittenInput 0x08) }
      else if s.cfg.addrW = .w64 ∧ s.written.bufAddrHi = false then
        .next { s with faults := addReason s.faults (.unwrittenInput 0x0C) }
      else if s.written.bufLenLo = false then .next { s with faults := addReason s.faults (.unwrittenInput 0x10) }
      else if s.cfg.lenW = .w64 ∧ s.written.bufLenHi = false then
        .next { s with faults := addReason s.faults (.unwrittenInput 0x14) }
      else .next { s with busy := true, done := false, seq := .unpack }

/-- UPDATE completes: with BUSY = 0 and every input register in use written, BUSY is set, DONE cleared and seq goes to
UNPACK, and nothing else changes (40_engine_update.md R123). -/
def Obligations.UpdateIsAccepted : Prop :=
  ∀ s, s.cfg.wf = true → s.busy = false → s.written.adlerIn = true → s.written.bufAddrLo = true →
    (s.cfg.addrW = .w64 → s.written.bufAddrHi = true) → s.written.bufLenLo = true →
    (s.cfg.lenW = .w64 → s.written.bufLenHi = true) →
    exec .update s = .next { s with busy := true, done := false, seq := .unpack }

/-- In a configuration that is not allowed UPDATE is refused and no micro-operation runs (41_vector_reduce.md R172).
That BAD_CONFIG comes before the other reasons of UPDATE is the model's choice (log entry 12). -/
def Obligations.BadConfigNeverRuns : Prop :=
  ∀ s, s.cfg.wf = false →
    exec .update s = .next { s with refusalMark := true, refusals := addReason s.refusals (.badConfig .vnmax) }
      ∧ ∀ i t, i ≠ .update → exec i s ≠ .next t

/-! ### The scalar micro-operations -/

/-- UNPACK on a range that does not wrap (40_engine_update.md R125, R130): the working state it writes, its successor,
and that nothing else changes. -/
def Obligations.UnpackLoadsWorkingState : Prop :=
  ∀ s, s.faults = [] → s.cfg.wf = true → s.seq = .unpack → bufAddr s + bufLen s ≤ 2 ^ s.cfg.addrW.bits →
    ∃ t, exec .unpack s = .next t
      ∧ t.s1.toNat = s.adlerIn.toNat % 65536 ∧ t.s2.toNat = s.adlerIn.toNat / 65536
      ∧ (t.inv = true ↔ 0 < bufLen s ∧ (65521 ≤ s.adlerIn.toNat % 65536 ∨ 65521 ≤ s.adlerIn.toNat / 65536))
      ∧ t.ptr.toNat = bufAddr s ∧ t.rem.toNat = bufLen s
      ∧ t.head.toNat = min ((16 - bufAddr s % 16) % 16) (bufLen s)
      ∧ t.seq = (if bufLen s = 0 then .pack
          else if 0 < min ((16 - bufAddr s % 16) % 16) (bufLen s) then .head
          else if 16 ≤ bufLen s then .venter else .tail)
      ∧ t = { s with s1 := t.s1, s2 := t.s2, inv := t.inv, ptr := t.ptr, rem := t.rem, head := t.head, seq := t.seq }

/-- UNPACK on a range that passes the top of the address space records F4 with BUF_ADDR and BUF_LEN and changes nothing
else (40_engine_update.md R125, 60_exceptions.md R212; log entry 10). -/
def Obligations.UnpackFaultsOnWrap : Prop :=
  ∀ s, s.faults = [] → s.cfg.wf = true → s.seq = .unpack → 2 ^ s.cfg.addrW.bits < bufAddr s + bufLen s →
    exec .unpack s = .next { s with faults := [.bufWrap (bufAddr s) (bufLen s)] }

/-- SBYTE on an admitted byte (40_engine_update.md R126): s2 takes the s1 just written, head moves at HEAD only.
What ptr, rem and head are past their widths (ptr modulo 2^ADDR_W, rem − 1 at rem = 0 and head − 1 at head = 0 wrapping) is
the model's choice, log entry 17, and so are the seqs computed from those values. -/
def Obligations.SbyteAddsOneByte : Prop :=
  ∀ s, s.faults = [] → s.cfg.wf = true → s.seq = .head ∨ s.seq = .tail → admitted s s.ptr.toNat = true →
    ∃ t, exec .sbyte s = .next t
      ∧ t.s1.toNat = (s.s1.toNat + (memByte s.mem s.ptr.toNat).toNat) % 2 ^ 32
      ∧ t.s2.toNat = (s.s2.toNat + t.s1.toNat) % 2 ^ 32
      ∧ t.ptr.toNat = (s.ptr.toNat + 1) % 2 ^ s.cfg.addrW.bits
      ∧ t.rem.toNat = (s.rem.toNat + 2 ^ s.cfg.lenW.bits - 1) % 2 ^ s.cfg.lenW.bits
      ∧ (s.seq = .head → t.head.toNat = (s.head.toNat + 31) % 32) ∧ (s.seq = .tail → t.head = s.head)
      ∧ (s.seq = .head → t.seq = (if 0 < t.head.toNat then .head else if 16 ≤ t.rem.toNat then .venter
          else if 0 < t.rem.toNat then .tail else .finalmod))
      ∧ (s.seq = .tail → t.seq = (if 0 < t.rem.toNat then .tail else .finalmod))
      ∧ t = { s with s1 := t.s1, s2 := t.s2, ptr := t.ptr, rem := t.rem, head := t.head, seq := t.seq }

/-- SBYTE and VWORD are stuck, with ptr, when a byte of their read is not admitted: the engine has no step, so the meaning
leaves the state as it is (20_memory.md R70, 60_exceptions.md R212 S1; the unchanged next state is log entry 13), and the
engine is stuck only so. -/
def Obligations.UnreadableBufferIsStuck : Prop :=
  (∀ s, s.faults = [] → s.cfg.wf = true → s.seq = .head ∨ s.seq = .tail → admitted s s.ptr.toNat = false →
    stuckAt s = some s.ptr ∧ exec .sbyte s = .next s)
  ∧ (∀ s k, s.faults = [] → s.cfg.wf = true → s.seq = .vword → k < 16 → admitted s (s.ptr.toNat + k) = false →
    stuckAt s = some s.ptr ∧ exec .vword s = .next s)
  ∧ (∀ s, stuckAt s ≠ none →
    (s.seq = .head ∨ s.seq = .tail) ∧ admitted s s.ptr.toNat = false
      ∨ s.seq = .vword ∧ ∃ k, k < 16 ∧ admitted s (s.ptr.toNat + k) = false)

/-- FINALMOD reduces s1 and s2 to the true remainders, goes to PACK and changes nothing else (40_engine_update.md R127). -/
def Obligations.FinalmodReducesSums : Prop :=
  ∀ s, s.faults = [] → s.cfg.wf = true → s.seq = .finalmod →
    exec .finalmod s = .next { s with
      s1 := BitVec.ofNat 32 (s.s1.toNat % 65521), s2 := BitVec.ofNat 32 (s.s2.toNat % 65521), seq := .pack }

/-- PACK stores (s2[15:0] << 16) | s1[15:0], or a draw under ANY with inv = 1, sets the mark of ADLER_OUT, clears BUSY,
sets DONE and goes to IDLE; nothing else changes but, after a draw, the model's draw counter (40_engine_update.md R128). -/
def Obligations.PackStoresResult : Prop :=
  ∀ s, s.faults = [] → s.cfg.wf = true → s.seq = .pack →
    exec .pack s = .next { s with
      adlerOut := if s.cfg.priorPolicy = .any ∧ s.inv = true then Config.draw s.draws
        else BitVec.ofNat 32 (s.s2.toNat % 65536 * 65536 + s.s1.toNat % 65536)
      draws := if s.cfg.priorPolicy = .any ∧ s.inv = true then s.draws + 1 else s.draws
      written := { s.written with adlerOut := true }
      busy := false, done := true, seq := .idle }

/-! ### The vector micro-operations -/

/-- VENTER puts FOLD2 of s1 and s2 into lane 0, clears the other lanes and starts a chunk of min(VNMAX, rem − rem mod W)
(41_vector_reduce.md R164, R165). -/
def Obligations.VenterStartsVectorPhase : Prop :=
  ∀ s, s.faults = [] → s.cfg.wf = true → s.seq = .venter →
    ∃ t, exec .venter s = .next t
      ∧ t.vs1 = ⟨fold2 s.s1, 0, 0, 0⟩ ∧ t.vs2 = ⟨fold2 s.s2, 0, 0, 0⟩
      ∧ t.chunk.toNat = min s.cfg.vnmax (s.rem.toNat - s.rem.toNat % 16) ∧ t.seq = .vword
      ∧ t = { s with vs1 := t.vs1, vs2 := t.vs2, chunk := t.chunk, seq := t.seq }

/-- VWORD on sixteen admitted bytes: each vs2 lane takes 16 times the OLD vs1 lane and its weighted bytes, each vs1 lane
its bytes, weights following stream position whatever VEC_PACK is (41_vector_reduce.md R161 to R163, R166).
What ptr, rem and chunk are past their widths (ptr modulo 2^ADDR_W, rem − 16 wrapping below 16, chunk 14 bits wide and
chunk − 16 wrapping below 16) is the model's choice, log entry 17, and so is the seq computed from such a chunk. -/
def Obligations.VwordAccumulatesRead : Prop :=
  ∀ s, s.faults = [] → s.cfg.wf = true → s.seq = .vword →
    (∀ k, k < 16 → admitted s (s.ptr.toNat + k) = true) →
    ∃ t, exec .vword s = .next t
      ∧ (∀ l, l < 4 →
        let w := fun k => (memByte s.mem (s.ptr.toNat + (4 * l + k))).toNat
        (t.vs1.get l).toNat = ((s.vs1.get l).toNat + (w 0 + w 1 + w 2 + w 3)) % 2 ^ 32
        ∧ (t.vs2.get l).toNat = ((s.vs2.get l).toNat + 16 * (s.vs1.get l).toNat
            + ((16 - 4 * l) * w 0 + (15 - 4 * l) * w 1 + (14 - 4 * l) * w 2 + (13 - 4 * l) * w 3)) % 2 ^ 32)
      ∧ t.ptr.toNat = (s.ptr.toNat + 16) % 2 ^ s.cfg.addrW.bits
      ∧ t.rem.toNat = (s.rem.toNat + 2 ^ s.cfg.lenW.bits - 16) % 2 ^ s.cfg.lenW.bits
      ∧ t.chunk.toNat = (s.chunk.toNat + 2 ^ 14 - 16) % 2 ^ 14
      ∧ t.seq = (if 0 < t.chunk.toNat then .vword else .vfold)
      ∧ t = { s with vs1 := t.vs1, vs2 := t.vs2, ptr := t.ptr, rem := t.rem, chunk := t.chunk, seq := t.seq }

/-- VFOLD puts FOLD2 of every lane back, starts the next chunk while a full read is left, and changes nothing else
(41_vector_reduce.md R167, R165). -/
def Obligations.VfoldReducesLanes : Prop :=
  ∀ s, s.faults = [] → s.cfg.wf = true → s.seq = .vfold →
    ∃ t, exec .vfold s = .next t
      ∧ (∀ l, l < 4 → t.vs1.get l = fold2 (s.vs1.get l) ∧ t.vs2.get l = fold2 (s.vs2.get l))
      ∧ (16 ≤ s.rem.toNat → t.chunk.toNat = min s.cfg.vnmax (s.rem.toNat - s.rem.toNat % 16) ∧ t.seq = .vword)
      ∧ (s.rem.toNat < 16 → t.chunk = s.chunk ∧ t.seq = .vexit)
      ∧ t = { s with vs1 := t.vs1, vs2 := t.vs2, chunk := t.chunk, seq := t.seq }

/-- VEXIT puts the sum of the four lanes of each accumulator into s1 and s2 (41_vector_reduce.md R168). -/
def Obligations.VexitSumsLanes : Prop :=
  ∀ s, s.faults = [] → s.cfg.wf = true → s.seq = .vexit →
    exec .vexit s = .next { s with
      s1 := s.vs1.get 0 + s.vs1.get 1 + s.vs1.get 2 + s.vs1.get 3
      s2 := s.vs2.get 0 + s.vs2.get 1 + s.vs2.get 2 + s.vs2.get 3
      seq := if 0 < s.rem.toNat then .tail else .finalmod }

/-- After every micro-operation that records no fault and is not stuck, so that it has made its writes, seq is set from the new
state by the table of R124 (40_engine_update.md R124). -/
def Obligations.SuccessorFollowsTable : Prop :=
  ∀ i s t, i ≠ .update → stuckAt s = none → exec i s = .next t → t.faults = [] →
    t.seq = match s.seq with
      | .idle => .idle
      | .unpack => if t.rem.toNat = 0 then .pack else if 0 < t.head.toNat then .head
          else if 16 ≤ t.rem.toNat then .venter else .tail
      | .head => if 0 < t.head.toNat then .head else if 16 ≤ t.rem.toNat then .venter
          else if 0 < t.rem.toNat then .tail else .finalmod
      | .venter => .vword
      | .vword => if 0 < t.chunk.toNat then .vword else .vfold
      | .vfold => if 16 ≤ t.rem.toNat then .vword else .vexit
      | .vexit => if 0 < t.rem.toNat then .tail else .finalmod
      | .tail => if 0 < t.rem.toNat then .tail else .finalmod
      | .finalmod => .pack
      | .pack => .idle

/-! ### Frames over all instructions -/

/-- No instruction writes memory: every byte reads as before (20_memory.md R61). -/
def Obligations.InstructionsNeverWriteMemory : Prop :=
  ∀ i s t, exec i s = .next t → ∀ a, memByte t.mem a = memByte s.mem a

/-- No instruction writes an input register or its mark (10_state.md R31 to R33, R43). -/
def Obligations.InstructionsKeepInputRegisters : Prop :=
  ∀ i s t, exec i s = .next t →
    t.adlerIn = s.adlerIn ∧ t.bufAddrLo = s.bufAddrLo ∧ t.bufAddrHi = s.bufAddrHi
      ∧ t.bufLenLo = s.bufLenLo ∧ t.bufLenHi = s.bufLenHi
      ∧ { t.written with adlerOut := s.written.adlerOut } = s.written

/-- Only PACK writes ADLER_OUT and its mark (10_state.md R36, R43): no other instruction does, and no step of any agent does
but a reset event and the engine's step at PACK with no fault recorded. -/
def Obligations.OnlyPackWritesResult : Prop :=
  (∀ i s t, i ≠ .pack → exec i s = .next t → t.adlerOut = s.adlerOut ∧ t.written = s.written)
  ∧ ∀ s t, step s = .next t → s.inputs.head? ≠ some .reset →
    (∀ u, EngineTurn s u → s.seq = .pack → s.faults ≠ []) →
    t.adlerOut = s.adlerOut ∧ t.written.adlerOut = s.written.adlerOut

/-- Only UPDATE and PACK write BUSY and DONE (10_state.md R46): no other instruction does, and no step of any agent does but
a reset event, an aligned 32-bit write of 1 to CMD and the engine's step at PACK with no fault recorded. -/
def Obligations.OnlyUpdateAndPackWriteStatus : Prop :=
  (∀ i s t, i ≠ .update → i ≠ .pack → exec i s = .next t → t.busy = s.busy ∧ t.done = s.done)
  ∧ ∀ s t, step s = .next t → s.inputs.head? ≠ some .reset →
    s.inputs.head? ≠ some (.access (.write 32 0x18 1)) →
    (∀ u rest, HostTurn s u → u.program ≠ .wr .cmd 1 :: rest) →
    (∀ u, EngineTurn s u → s.seq = .pack → s.faults ≠ []) →
    t.busy = s.busy ∧ t.done = s.done

/-- No step of the machine changes a parameter (00_scope.md R16 to R21; that the parameters stand in State is log entry 2). -/
def Obligations.StepNeverChangesParameters : Prop :=
  ∀ s t, step s = .next t → t.cfg = s.cfg

/-- No step but a reset event takes a reason out of the fault record or clears the refusal mark or a written mark
(10_state.md R43, R49, 60_exceptions.md R212). -/
def Obligations.OnlyResetClearsRecords : Prop :=
  ∀ s t, step s = .next t → s.inputs.head? ≠ some .reset →
    (∀ r, r ∈ s.faults → r ∈ t.faults) ∧ (s.refusalMark = true → t.refusalMark = true)
      ∧ (s.written.adlerIn = true → t.written.adlerIn = true)
      ∧ (s.written.bufAddrLo = true → t.written.bufAddrLo = true)
      ∧ (s.written.bufAddrHi = true → t.written.bufAddrHi = true)
      ∧ (s.written.bufLenLo = true → t.written.bufLenLo = true)
      ∧ (s.written.bufLenHi = true → t.written.bufLenHi = true)
      ∧ (s.written.adlerOut = true → t.written.adlerOut = true)

/-! ### Host accesses -/

/-- Any access to a reserved slot is refused RESERVED_OFFSET, and any access that is not a naturally aligned 32-bit access
is refused BAD_ACCESS, whatever else holds (10_state.md R37, 60_exceptions.md R213 ranks 1 and 2).
R37 speaks of offsets within the window, which is 32 bytes (20_memory.md R71): that an access at 0x20 or above is refused so
is the model's choice, log entry 25. -/
def Obligations.ReservedAndBadAccessesRefused : Prop :=
  ∀ s a,
    (a.width ≠ 32 ∨ a.offset % 4 ≠ 0 →
      hostAccess a s = .next { s with
        refusalMark := true, refusals := addReason s.refusals (.badAccess a.offset a.width) })
    ∧ (a.width = 32 → a.offset % 4 = 0 →
      (a.offset = 0x0C ∧ s.cfg.addrW = .w32 ∨ a.offset = 0x14 ∧ s.cfg.lenW = .w32 ∨ 0x20 ≤ a.offset) →
      hostAccess a s = .next { s with
        refusalMark := true, refusals := addReason s.refusals (.reservedOffset a.offset) })

/-- A write to STATUS or ADLER_OUT is refused WRITE_TO_RO and a read of CMD is refused READ_OF_WO, whatever else holds
(10_state.md R34 to R36, 60_exceptions.md R213 rank 3). -/
def Obligations.DirectionRefusals : Prop :=
  ∀ s v,
    hostAccess (.write 32 0x1C v) s = .next { s with
        refusalMark := true, refusals := addReason s.refusals (.writeToRo 0x1C) }
    ∧ hostAccess (.write 32 0x04 v) s = .next { s with
        refusalMark := true, refusals := addReason s.refusals (.writeToRo 0x04) }
    ∧ hostAccess (.read 32 0x18) s = .next { s with
        refusalMark := true, refusals := addReason s.refusals (.readOfWo 0x18) }

/-- A read of STATUS returns BUSY in bit 0, DONE in bit 1 and 0 in bits 31 to 2, and changes nothing but the reply log
(10_state.md R35; the reply log is log entry 20). On the host's turn a WAITDONE performs that read and stays the next line of
the host's program until the read has DONE = 1 (30_encoding.md R100; the program is log entry 26). -/
def Obligations.StatusReadReturnsBusyAndDone : Prop :=
  let r := fun (s : State) =>
    s.replies ++ [⟨0x1C, BitVec.ofNat 32 ((if s.busy = true then 1 else 0) + (if s.done = true then 2 else 0))⟩]
  (∀ s, hostAccess (.read 32 0x1C) s = .next { s with replies := r s })
  ∧ ∀ s u rest, HostTurn s u → u.program = .waitDone :: rest →
    step s = .next { u with
      replies := r s, program := if s.done = true then rest else .waitDone :: rest }

/-- While BUSY = 0 a write of an input register in use stores the value and sets the mark, and nothing else changes
(10_state.md R31 to R33, R43). -/
def Obligations.InputWriteStoresValue : Prop :=
  ∀ s v, s.busy = false →
    hostAccess (.write 32 0x00 v) s = .next { s with adlerIn := v, written := { s.written with adlerIn := true } }
    ∧ hostAccess (.write 32 0x08 v) s = .next { s with
        bufAddrLo := v, written := { s.written with bufAddrLo := true } }
    ∧ (s.cfg.addrW = .w64 → hostAccess (.write 32 0x0C v) s = .next { s with
        bufAddrHi := v, written := { s.written with bufAddrHi := true } })
    ∧ hostAccess (.write 32 0x10 v) s = .next { s with
        bufLenLo := v, written := { s.written with bufLenLo := true } }
    ∧ (s.cfg.lenW = .w64 → hostAccess (.write 32 0x14 v) s = .next { s with
        bufLenHi := v, written := { s.written with bufLenHi := true } })

/-- While BUSY = 1 a write of an input register in use records F3 with its offset and the register keeps its old value
(70_reset_and_hazards.md R244). -/
def Obligations.InputWriteWhileBusyFaults : Prop :=
  ∀ s v o, s.busy = true →
    (o = 0x00 ∨ o = 0x08 ∨ o = 0x0C ∧ s.cfg.addrW = .w64 ∨ o = 0x10 ∨ o = 0x14 ∧ s.cfg.lenW = .w64) →
    hostAccess (.write 32 o v) s = .next { s with faults := addReason s.faults (.writeWhileBusy o) }

/-- A read of an input register in use returns its value when it is written since reset, BUSY or not, and records F5
with its offset when it is not (10_state.md R31 to R33, 70_reset_and_hazards.md R244). -/
def Obligations.InputReadReturnsValueOrFaults : Prop :=
  ∀ s o m v,
    (o = 0x00 ∧ m = s.written.adlerIn ∧ v = s.adlerIn
      ∨ o = 0x08 ∧ m = s.written.bufAddrLo ∧ v = s.bufAddrLo
      ∨ o = 0x0C ∧ s.cfg.addrW = .w64 ∧ m = s.written.bufAddrHi ∧ v = s.bufAddrHi
      ∨ o = 0x10 ∧ m = s.written.bufLenLo ∧ v = s.bufLenLo
      ∨ o = 0x14 ∧ s.cfg.lenW = .w64 ∧ m = s.written.bufLenHi ∧ v = s.bufLenHi) →
    hostAccess (.read 32 o) s =
      if m = true then .next { s with replies := s.replies ++ [⟨o, v⟩] }
      else .next { s with faults := addReason s.faults (.unwrittenRead o) }

/-- A read of ADLER_OUT is a draw while BUSY = 1, else the last value PACK wrote, or F5 when PACK has never run since reset
(10_state.md R36). That it is a draw while BUSY also before the first PACK is the model's reading (log entry 9).
On the host's turn a CHAIN performs that read and the next line of the host's program writes the value read to ADLER_IN
(30_encoding.md R100; the program is log entry 26). That after a read that faulted the line stays, with a draw for the value
no read returned, is the model's choice (log entry 27). -/
def Obligations.ResultReadOutcome : Prop :=
  (∀ s, hostAccess (.read 32 0x04) s =
    if s.busy = true then .next { s with
      draws := s.draws + 1, replies := s.replies ++ [⟨0x04, Config.draw s.draws⟩] }
    else if s.written.adlerOut = true then .next { s with replies := s.replies ++ [⟨0x04, s.adlerOut⟩] }
    else .next { s with faults := addReason s.faults (.unwrittenRead 0x04) })
  ∧ ∀ s u rest, HostTurn s u → u.program = .chain :: rest →
    step s =
      if s.busy = true then .next { u with
        draws := s.draws + 1, replies := s.replies ++ [⟨0x04, Config.draw s.draws⟩]
        program := .wr .adlerIn (Config.draw s.draws) :: rest }
      else if s.written.adlerOut = true then .next { u with
        replies := s.replies ++ [⟨0x04, s.adlerOut⟩], program := .wr .adlerIn s.adlerOut :: rest }
      else .next { u with
        faults := addReason s.faults (.unwrittenRead 0x04), draws := s.draws + 1
        program := .wr .adlerIn (Config.draw s.draws) :: rest }

/-- What a host access does, and what the host sees of it, does not depend on the engine's working state: from two states
that differ in it alone, the same access leads to two such states (10_state.md R47). -/
def Obligations.HostCannotSeeWorkingState : Prop :=
  ∀ a s u t, SameToHost s u → hostAccess a s = .next t → ∃ v, hostAccess a u = .next v ∧ SameToHost t v

/-- A write to a byte of the running UPDATE's buffer while BUSY = 1 is refused and leaves memory alone; any other write
inside the address space stores its byte and leaves every other byte alone (20_memory.md R74, 60_exceptions.md R212 X8).
The model's choices in it: the protected range does not wrap and lasts while BUSY, also after a fault (log entry 24), a write
is visible at once (log entry 14) and is stored also where the read port does not admit the byte
(log entry 28), the canonical form rests on the unlisted byte (log entry 5), and
a write at or above 2^ADDR_W stops as noSuchAddress (log entry 15). -/
def Obligations.BufferWriteWhileBusyRefused : Prop :=
  ∀ s addr b,
    (2 ^ s.cfg.addrW.bits ≤ addr → memoryWrite addr b s = .fault (.noSuchAddress addr))
    ∧ (addr < 2 ^ s.cfg.addrW.bits → s.busy = true ∧ bufAddr s ≤ addr ∧ addr < bufAddr s + bufLen s →
      memoryWrite addr b s = .next { s with
        refusalMark := true, refusals := addReason s.refusals (.bufWriteWhileBusy addr) })
    ∧ (s.mem.wf = true → addr < 2 ^ s.cfg.addrW.bits →
      ¬(s.busy = true ∧ bufAddr s ≤ addr ∧ addr < bufAddr s + bufLen s) →
      ∃ t, memoryWrite addr b s = .next t ∧ t = { s with mem := t.mem } ∧ t.mem.wf = true
        ∧ ∀ a, memByte t.mem a = if a = addr then b else memByte s.mem a)

/-! ### Reset -/

/-- What reset leaves (10_state.md R48): STATUS 0, seq IDLE, every mark clear, no fault and no refusal;
so a read of STATUS returns 0 and a read of a register with no value faults. -/
def Obligations.ResetValues : Prop :=
  statusWord State.reset = 0 ∧ State.reset.busy = false ∧ State.reset.done = false ∧ State.reset.seq = .idle
    ∧ State.reset.written = ⟨false, false, false, false, false, false⟩
    ∧ State.reset.faults = [] ∧ State.reset.refusalMark = false
    ∧ ∀ o, o = 0x00 ∨ o = 0x04 ∨ o = 0x08 ∨ o = 0x10 →
        hostAccess (.read 32 o) State.reset = .next { State.reset with faults := [.unwrittenRead o] }

/-- A reset event at any time gives the block its reset values and abandons a running UPDATE: STATUS 0, seq IDLE, the marks,
the fault record and the refusal mark clear (70_reset_and_hazards.md R240, 10_state.md R48). R48 leaves ADLER_IN, ADLER_OUT,
the BUF registers, s1, s2, ptr, rem, head, chunk, vs1, vs2 and inv unwritten: that State.reset holds 0, and false for inv, is
the model's choice (log entry 3). That the parameters, memory, admission, pending steps, the host's program, replies and the
draw counter stay is the model's choice too (log entry 18). -/
def Obligations.ResetEventRestoresBlock : Prop :=
  ∀ s rest, s.inputs = .reset :: rest →
    step s = .next { State.reset with
      cfg := s.cfg, mem := s.mem, unreadable := s.unreadable, inputs := rest, program := s.program
      replies := s.replies, draws := s.draws }

/-! ### Operands and datapath functions -/

/-- BUF_ADDR and BUF_LEN from their registers (10_state.md R32, R33). -/
def Obligations.BufferOperandsFromRegisters : Prop :=
  ∀ s, (s.cfg.addrW = .w32 → bufAddr s = s.bufAddrLo.toNat)
    ∧ (s.cfg.addrW = .w64 → bufAddr s = s.bufAddrHi.toNat * 2 ^ 32 + s.bufAddrLo.toNat)
    ∧ (s.cfg.lenW = .w32 → bufLen s = s.bufLenLo.toNat)
    ∧ (s.cfg.lenW = .w64 → bufLen s = s.bufLenHi.toNat * 2 ^ 32 + s.bufLenLo.toNat)

/-- The head phase reads min(k, BUF_LEN) bytes, stays in the buffer, and ends at the first multiple of 16 unless the
buffer ends before it (40_engine_update.md R130). -/
def Obligations.HeadLengthReachesAlignment : Prop :=
  ∀ addr len, headLength addr len = min ((16 - addr % 16) % 16) len
    ∧ (headLength addr len = len ∨ (addr + headLength addr len) % 16 = 0)
    ∧ ∀ j, j < headLength addr len → (addr + j) % 16 ≠ 0

/-- HSUM of a lane under either packing (41_vector_reduce.md R162, 20_memory.md R63). -/
def Obligations.HsumAddsLaneBytes : Prop :=
  ∀ p bs l, bs.length = 16 → l < 4 →
    let w := fun g => (bs.getD (4 * l + g) 0).toNat
    (hsum p (packVec p bs) l).toNat = w 0 + w 1 + w 2 + w 3 ∧ (hsum p (packVec p bs) l).toNat ≤ 1020

/-- WSUM of a lane under either packing, and its maximum per lane (41_vector_reduce.md R163, 20_memory.md R63). -/
def Obligations.WsumWeighsLaneBytes : Prop :=
  ∀ p bs l, bs.length = 16 → l < 4 →
    let w := fun g => (bs.getD (4 * l + g) 0).toNat
    (wsum p (packVec p bs) l).toNat
        = (16 - 4 * l - 0) * w 0 + (16 - 4 * l - 1) * w 1 + (16 - 4 * l - 2) * w 2 + (16 - 4 * l - 3) * w 3
      ∧ (wsum p (packVec p bs) l).toNat ≤ 14790 - 4080 * l
      ∧ (bs = List.replicate 16 0xFF → (wsum p (packVec p bs) l).toNat = 14790 - 4080 * l)

/-- The result of VWORD is the same for both settings of VEC_PACK (20_memory.md R63). -/
def Obligations.VwordIgnoresPacking : Prop :=
  ∀ s t p, exec .vword s = .next t →
    exec .vword { s with cfg := { s.cfg with vecPack := p } } = .next { t with cfg := { t.cfg with vecPack := p } }

/-- FOLD(x) = x[15:0] + 15 · x[31:16], at most 1 048 560, and x itself below 65536 (42_modular_fold.md R190). -/
def Obligations.FoldValueAndRange : Prop :=
  ∀ x : Word, (fold x).toNat = x.toNat % 65536 + 15 * (x.toNat / 65536) ∧ (fold x).toNat ≤ 1048560
    ∧ (x.toNat < 65536 → fold x = x)

/-- Any number of FOLDs preserves a value's class modulo 65521, and so does the sum of folded lanes
(42_modular_fold.md R191). -/
def Obligations.FoldPreservesClass : Prop :=
  (∀ (x : Word) (n : Nat), (fold^[n] x).toNat % 65521 = x.toNat % 65521)
    ∧ ∀ v : Lanes,
      ((foldLanes v).l0.toNat + (foldLanes v).l1.toNat + (foldLanes v).l2.toNat + (foldLanes v).l3.toNat) % 65521
        = (v.l0.toNat + v.l1.toNat + v.l2.toNat + v.l3.toNat) % 65521

/-- FOLD2(x) = FOLD(FOLD(x)) is at most 65745, which 0xFFFFFFFF reaches, and x itself below 65536
(42_modular_fold.md R193). -/
def Obligations.FoldTwiceBound : Prop :=
  (∀ x : Word, fold2 x = fold (fold x) ∧ (fold2 x).toNat ≤ 65745 ∧ (x.toNat < 65536 → fold2 x = x))
    ∧ (fold2 0xFFFFFFFF).toNat = 65745

/-- The shift-and-add form of FOLD is equal to it for every word (42_modular_fold.md R194). -/
def Obligations.FoldByShiftAndAdd : Prop :=
  ∀ x : Word, fold x = (x &&& 0xFFFF) + ((x >>> 16) <<< 4) - (x >>> 16)

/-- MOD(x) is the true remainder, in [0, 65520] (42_modular_fold.md R195). -/
def Obligations.ModIsTrueRemainder : Prop :=
  ∀ x : Word, (modM x).toNat = x.toNat % 65521 ∧ (modM x).toNat ≤ 65520

/-- The allowed values of VNMAX are the positive multiples of 16 up to 10608: the inequality holds for K = 663 and
fails for K = 664 (41_vector_reduce.md R169). -/
def Obligations.LargestSafeChunk : Prop :=
  (∀ v, vnmaxOk v = true ↔ v % 16 = 0 ∧ 16 ≤ v ∧ v ≤ 10608)
    ∧ chunkBound 663 = 4288767435 ∧ chunkBound 664 = 4300654305

/-! ### The reference checksum -/

/-- The closed form of Adler(a, B) for a nonempty B (40_engine_update.md R121). -/
def Obligations.AdlerClosedForm : Prop :=
  ∀ (a : Word) (bs : List Byte), bs ≠ [] →
    (adler a bs).toNat % 65536 = (a.toNat % 65536 + (bs.map BitVec.toNat).sum) % 65521
    ∧ (adler a bs).toNat / 65536 = (a.toNat / 65536 + bs.length * (a.toNat % 65536)
        + ((List.range bs.length).map (fun i => (bs.length - i) * (bs.getD i 0).toNat)).sum) % 65521

/-- Adler(Adler(a, B1), B2) = Adler(a, B1 ++ B2) (40_engine_update.md R133). -/
def Obligations.AdlerIsIncremental : Prop :=
  ∀ (a : Word) (b1 b2 : List Byte), adler (adler a b1) b2 = adler a (b1 ++ b2)

/-- For n = 0 Adler returns a, and for n > 0 both components are below M (40_engine_update.md R120). -/
def Obligations.AdlerEmptyAndRange : Prop :=
  ∀ (a : Word) (bs : List Byte), adler a [] = a
    ∧ (bs ≠ [] → (adler a bs).toNat % 65536 < 65521 ∧ (adler a bs).toNat / 65536 < 65521)

/-! ### Invariants and the headline -/

/-- The engine invariant holds at reset, with STATUS 0 and seq IDLE there (10_state.md R48, R35), and so does the canonical
form of memory, which is the model's own form, as is the empty memory at reset (log entry 5). -/
def Obligations.ResetMeetsEngineInvariant : Prop :=
  EngineInv State.reset ∧ State.reset.mem.wf = true

/-- Every step of either agent, of any other agent and of the platform keeps the engine invariant: the status bits follow
seq, reads stay in the buffer and aligned, no sum or lane leaves its bound, and every sum is congruent to the scalar one
(20_memory.md R65, R69, 40_engine_update.md R126, 41_vector_reduce.md R169 to R171). -/
def Obligations.StepKeepsEngineInvariant : Prop :=
  ∀ s t, EngineInv s → step s = .next t → EngineInv t

/-- Every step keeps memory in its canonical form: addresses strictly rising and no entry equal to the unlisted byte.
The form is the model's own (log entry 5); no rule of the spec states it. -/
def Obligations.StepKeepsMemoryCanonical : Prop :=
  ∀ s t, s.mem.wf = true → step s = .next t → t.mem.wf = true

/-- Where the engine invariant holds, the engine's next read lies in the buffer, and a vector read is aligned
(20_memory.md R65, R69). -/
def Obligations.EngineReadsInsideBuffer : Prop :=
  ∀ s, EngineInv s →
    (s.seq = .head ∨ s.seq = .tail → bufAddr s ≤ s.ptr.toNat ∧ s.ptr.toNat + 1 ≤ bufAddr s + bufLen s)
    ∧ (s.seq = .vword → bufAddr s ≤ s.ptr.toNat ∧ s.ptr.toNat + 16 ≤ bufAddr s + bufLen s ∧ s.ptr.toNat % 16 = 0)

/-- Where the engine invariant holds and the engine is not stuck, VWORD adds without wrapping: each lane takes its exact sum
(41_vector_reduce.md R170), and so does SBYTE (40_engine_update.md R126). -/
def Obligations.SumsNeverWrap : Prop :=
  (∀ s t l, EngineInv s → stuckAt s = none → exec .vword s = .next t → l < 4 →
    let w := fun k => (memByte s.mem (s.ptr.toNat + (4 * l + k))).toNat
    (t.vs1.get l).toNat = (s.vs1.get l).toNat + (w 0 + w 1 + w 2 + w 3)
    ∧ (t.vs2.get l).toNat = (s.vs2.get l).toNat + 16 * (s.vs1.get l).toNat
        + ((16 - 4 * l) * w 0 + (15 - 4 * l) * w 1 + (14 - 4 * l) * w 2 + (13 - 4 * l) * w 3))
  ∧ (∀ s t, EngineInv s → stuckAt s = none → exec .sbyte s = .next t →
    t.s1.toNat = s.s1.toNat + (memByte s.mem s.ptr.toNat).toNat ∧ t.s2.toNat = s.s2.toNat + t.s1.toNat
    ∧ t.s1.toNat ≤ 266805 ∧ t.s2.toNat ≤ 4238280)

/-- Where the engine invariant holds at PACK, the result is Adler of ADLER_IN over the buffer, but for a draw under ANY,
and both its components are below M when the prior is valid or the length is nonzero (40_engine_update.md R122, R134). -/
def Obligations.PackedResultIsAdler : Prop :=
  ∀ s, EngineInv s → s.faults = [] → s.cfg.wf = true → s.seq = .pack →
    ¬(s.cfg.priorPolicy = .any ∧ 0 < bufLen s ∧ priorInvalid s.adlerIn = true) →
    ∃ t, exec .pack s = .next t ∧ t.adlerOut = adler s.adlerIn (stream s)
      ∧ (0 < bufLen s ∨ priorInvalid s.adlerIn = false →
        t.adlerOut.toNat % 65536 < 65521 ∧ t.adlerOut.toNat / 65536 < 65521)

/-- An UPDATE of length 0 takes the two micro-operations UNPACK and PACK, reads no memory (no byte need be admitted),
and returns ADLER_IN bit for bit under either policy (40_engine_update.md R129). -/
def Obligations.ZeroLengthReturnsPrior : Prop :=
  ∀ s, s.inputs = [] → s.faults = [] → s.cfg.wf = true → s.seq = .unpack → bufLen s = 0 →
    ∃ t, Host.Core.run core 1 s = .next t ∧ t.seq = .pack
      ∧ ∃ u, Host.Core.run core 2 s = .next u ∧ u.seq = .idle ∧ u.adlerOut = s.adlerIn ∧ statusWord u = 2

/-- THE HEADLINE. From UNPACK, with no fault recorded, a buffer that is admitted and does not wrap, an allowed
configuration and only the engine moving, the count of micro-operations of R136 ends at IDLE with DONE = 1, no fault,
and ADLER_OUT = Adler(ADLER_IN, B); under ANY with an invalid prior and a nonzero length, the value is a draw
(40_engine_update.md R122, R132, R136). -/
def Obligations.UpdateComputesAdler : Prop :=
  ∀ s, s.inputs = [] → s.faults = [] → s.cfg.wf = true → s.seq = .unpack → NoWrap s → BufferAdmitted s →
    ∃ t, Host.Core.run core (updateSteps s) s = .next t
      ∧ t.seq = .idle ∧ t.busy = false ∧ t.done = true ∧ t.faults = []
      ∧ (¬(s.cfg.priorPolicy = .any ∧ 0 < bufLen s ∧ priorInvalid s.adlerIn = true) →
        t.adlerOut = adler s.adlerIn (stream s))
end

