-- ==== Sys2Proof/Laws/Memory.lean ====
section
/-! SUPPORT. Buffer memory: a read after a write, the canonical form, and what MemRead answers. -/

namespace Sys2Proof.Machine

theorem memByte_consCell (addr : Nat) (b : Byte) (m : Memory) (x : Nat) (h : memByte m addr = unlistedByte) :
    memByte (consCell addr b m) x = if x = addr then b else memByte m x := by
  unfold consCell
  split
  · split
    · subst_vars; exact h
    · rfl
  · simp [memByte, eq_comm]

/-- Below the lower limit of a canonical memory nothing is listed. -/
theorem memByte_below {low : Nat} {m : Memory} (h : memWfFrom low m = true) {x : Nat} (hx : x < low) :
    memByte m x = unlistedByte := by
  induction m generalizing low with
  | nil => rfl
  | cons c rest ih =>
    obtain ⟨a, b⟩ := c
    simp only [memWfFrom, Bool.and_eq_true, decide_eq_true_eq] at h
    rw [memByte, if_neg (by omega)]
    exact ih h.2 (by omega)

theorem memWfFrom_mono {low low' : Nat} {m : Memory} (h : memWfFrom low m = true) (hl : low' ≤ low) :
    memWfFrom low' m = true := by
  cases m with
  | nil => rfl
  | cons c rest =>
    obtain ⟨a, b⟩ := c
    simp only [memWfFrom, Bool.and_eq_true, decide_eq_true_eq] at h ⊢
    exact ⟨⟨by omega, h.1.2⟩, h.2⟩

theorem consCell_wf {low addr : Nat} {b : Byte} {m : Memory} (h : memWfFrom (addr + 1) m = true) (hl : low ≤ addr) :
    memWfFrom low (consCell addr b m) = true := by
  unfold consCell
  split
  · exact memWfFrom_mono h (by omega)
  · simp only [memWfFrom, Bool.and_eq_true, decide_eq_true_eq]
    exact ⟨⟨hl, by assumption⟩, h⟩

theorem memPut_wfFrom {low addr : Nat} {m : Memory} (h : memWfFrom low m = true) (hl : low ≤ addr) (b : Byte) :
    memWfFrom low (memPut m addr b) = true := by
  induction m generalizing low with
  | nil => exact consCell_wf rfl hl
  | cons c rest ih =>
    obtain ⟨a, d⟩ := c
    have hc := h
    simp only [memWfFrom, Bool.and_eq_true, decide_eq_true_eq] at h
    rw [memPut]
    split
    · refine consCell_wf ?_ hl
      simp only [memWfFrom, Bool.and_eq_true, decide_eq_true_eq]
      exact ⟨⟨by omega, h.1.2⟩, h.2⟩
    · split
      · subst_vars; exact consCell_wf h.2 hl
      · simp only [memWfFrom, Bool.and_eq_true, decide_eq_true_eq]
        exact ⟨h.1, ih h.2 (by omega)⟩

/-- Every write keeps the canonical form. -/
theorem memPut_wf {m : Memory} (h : m.wf = true) (addr : Nat) (b : Byte) : Memory.wf (memPut m addr b) = true :=
  memPut_wfFrom h (Nat.zero_le _) b

theorem memByte_memPut_from {low : Nat} {m : Memory} (h : memWfFrom low m = true) (addr : Nat) (b : Byte) (x : Nat) :
    memByte (memPut m addr b) x = if x = addr then b else memByte m x := by
  induction m generalizing low with
  | nil => exact memByte_consCell addr b [] x rfl
  | cons c rest ih =>
    obtain ⟨a, d⟩ := c
    have hc := h
    simp only [memWfFrom, Bool.and_eq_true, decide_eq_true_eq] at h
    rw [memPut]
    split
    · rename_i hlt
      apply memByte_consCell
      rw [memByte, if_neg (by omega)]
      exact memByte_below h.2 (by omega)
    · split
      · subst_vars
        rw [memByte_consCell _ _ _ _ (memByte_below h.2 (by omega))]
        by_cases hx : x = a <;> simp [hx, memByte, eq_comm]
      · by_cases hx : a = x
        · subst hx; simp [memByte, show ¬(a = addr) by omega]
        · simp [memByte, hx, ih h.2]

/-- A byte reads as what was written to it last, and a write leaves every other byte alone. -/
theorem memByte_memPut {m : Memory} (h : m.wf = true) (addr : Nat) (b : Byte) (x : Nat) :
    memByte (memPut m addr b) x = if x = addr then b else memByte m x :=
  memByte_memPut_from h addr b x

/-- The memory at reset is in canonical form. -/
theorem reset_mem_wf : State.reset.mem.wf = true := rfl

/-- MemRead answers the n bytes exactly when each is admitted (20_memory.md R62, R70). -/
theorem memRead_eq_some (s : State) (addr n : Nat) (bs : List Byte) :
    memRead s addr n = some bs ↔
      (∀ k < n, admitted s (addr + k) = true) ∧ bs = (List.range n).map (fun k => memByte s.mem (addr + k)) := by
  induction n generalizing addr bs with
  | zero => simp only [memRead, List.range_zero, List.map_nil, Option.some.injEq, Nat.not_lt_zero, false_imp_iff, implies_true, true_and]; exact eq_comm
  | succ n ih =>
    have hsplit : (∀ k < n + 1, admitted s (addr + k) = true) ↔
        admitted s addr = true ∧ ∀ k < n, admitted s (addr + 1 + k) = true := by
      constructor
      · intro h
        exact ⟨h 0 (by omega), fun k hk => by simpa [Nat.add_assoc, Nat.add_comm 1 k] using h (k + 1) (by omega)⟩
      · rintro ⟨h0, h1⟩ k hk
        cases k with
        | zero => exact h0
        | succ k => simpa [Nat.add_assoc, Nat.add_comm 1 k] using h1 k (by omega)
    have hmap : (List.range (n + 1)).map (fun k => memByte s.mem (addr + k)) =
        memByte s.mem addr :: (List.range n).map (fun k => memByte s.mem (addr + 1 + k)) := by
      simp [List.range_succ_eq_map, Function.comp_def, Nat.add_assoc, Nat.add_comm 1]
    rw [memRead, hsplit, hmap]
    split
    · rename_i h0
      simp only [Option.map_eq_some_iff, ih, h0, true_and]
      constructor
      · rintro ⟨cs, ⟨hc, rfl⟩, rfl⟩; exact ⟨hc, rfl⟩
      · rintro ⟨hc, rfl⟩; exact ⟨_, ⟨hc, rfl⟩, rfl⟩
    · rename_i h0
      simp [h0]

/-- MemRead answers nothing exactly when a byte is not admitted (20_memory.md R70). -/
theorem memRead_eq_none (s : State) (addr n : Nat) :
    memRead s addr n = none ↔ ∃ k < n, admitted s (addr + k) = false := by
  constructor
  · intro h
    by_contra hc
    have hall : ∀ k < n, admitted s (addr + k) = true := by
      intro k hk
      by_contra hk'
      exact hc ⟨k, hk, by simpa using hk'⟩
    rw [(memRead_eq_some s addr n _).2 ⟨hall, rfl⟩] at h
    cases h
  · rintro ⟨k, hk, h0⟩
    cases hr : memRead s addr n with
    | none => rfl
    | some bs =>
      have := ((memRead_eq_some s addr n bs).1 hr).1 k hk
      rw [h0] at this
      cases this

/-- MemRead depends on memory, admission and ADDR_W alone. -/
theorem memRead_congr {s t : State} (hm : t.mem = s.mem) (hu : t.unreadable = s.unreadable)
    (hw : t.cfg.addrW = s.cfg.addrW) (addr n : Nat) : memRead t addr n = memRead s addr n := by
  induction n generalizing addr with
  | zero => rfl
  | succ n ih =>
    have ha : admitted t addr = admitted s addr := by rw [admitted, addrSpace, hu, hw, admitted, addrSpace]
    rw [memRead, memRead, ha, hm, ih]

/-- The one byte SBYTE reads. -/
theorem memRead_head (s : State) (addr : Nat) :
    (memRead s addr 1).bind List.head? = if admitted s addr then some (memByte s.mem addr) else none := by
  simp only [memRead]
  split <;> simp

/-- A reason is in the set it was added to, with all that was there. -/
theorem mem_addReason {α : Type} [DecidableEq α] (set : List α) (r x : α) :
    x ∈ addReason set r ↔ x ∈ set ∨ x = r := by
  unfold addReason
  split
  · constructor
    · exact Or.inl
    · rintro (h | rfl) <;> assumption
  · simp

/-- Adding a reason keeps the set without repeats. -/
theorem addReason_nodup {α : Type} [DecidableEq α] {set : List α} (h : set.Nodup) (r : α) :
    (addReason set r).Nodup := by
  unfold addReason
  split
  · exact h
  · rename_i hr
    exact List.nodup_append.2 ⟨h, by simp, fun a ha b hb => by
      rintro rfl; simp at hb; exact hr (hb ▸ ha)⟩

/-- The fault record is not empty after a fault. -/
theorem addReason_ne_nil {α : Type} [DecidableEq α] (set : List α) (r : α) : addReason set r ≠ [] := by
  intro h
  have : r ∈ addReason set r := (mem_addReason set r r).2 (Or.inr rfl)
  rw [h] at this
  cases this

end Sys2Proof.Machine
end

