-- ==== Sys2Proof/Laws/State.lean ====
section
/-! SUPPORT. What each named update does to each field of State: one lemma per field per update. -/

namespace Sys2Proof.Machine

variable (s : State)

/-! ### setPtr -/

@[simp] theorem setPtr_cfg (v : Nat) : (setPtr s v).cfg = s.cfg := rfl
@[simp] theorem setPtr_adlerIn (v : Nat) : (setPtr s v).adlerIn = s.adlerIn := rfl
@[simp] theorem setPtr_adlerOut (v : Nat) : (setPtr s v).adlerOut = s.adlerOut := rfl
@[simp] theorem setPtr_bufAddrLo (v : Nat) : (setPtr s v).bufAddrLo = s.bufAddrLo := rfl
@[simp] theorem setPtr_bufAddrHi (v : Nat) : (setPtr s v).bufAddrHi = s.bufAddrHi := rfl
@[simp] theorem setPtr_bufLenLo (v : Nat) : (setPtr s v).bufLenLo = s.bufLenLo := rfl
@[simp] theorem setPtr_bufLenHi (v : Nat) : (setPtr s v).bufLenHi = s.bufLenHi := rfl
@[simp] theorem setPtr_busy (v : Nat) : (setPtr s v).busy = s.busy := rfl
@[simp] theorem setPtr_done (v : Nat) : (setPtr s v).done = s.done := rfl
@[simp] theorem setPtr_written (v : Nat) : (setPtr s v).written = s.written := rfl
@[simp] theorem setPtr_s1 (v : Nat) : (setPtr s v).s1 = s.s1 := rfl
@[simp] theorem setPtr_s2 (v : Nat) : (setPtr s v).s2 = s.s2 := rfl
@[simp] theorem setPtr_ptr (v : Nat) : (setPtr s v).ptr = BitVec.ofNat 64 (v % addrSpace s) := rfl
@[simp] theorem setPtr_rem (v : Nat) : (setPtr s v).rem = s.rem := rfl
@[simp] theorem setPtr_head (v : Nat) : (setPtr s v).head = s.head := rfl
@[simp] theorem setPtr_chunk (v : Nat) : (setPtr s v).chunk = s.chunk := rfl
@[simp] theorem setPtr_vs1 (v : Nat) : (setPtr s v).vs1 = s.vs1 := rfl
@[simp] theorem setPtr_vs2 (v : Nat) : (setPtr s v).vs2 = s.vs2 := rfl
@[simp] theorem setPtr_inv (v : Nat) : (setPtr s v).inv = s.inv := rfl
@[simp] theorem setPtr_seq (v : Nat) : (setPtr s v).seq = s.seq := rfl
@[simp] theorem setPtr_faults (v : Nat) : (setPtr s v).faults = s.faults := rfl
@[simp] theorem setPtr_refusalMark (v : Nat) : (setPtr s v).refusalMark = s.refusalMark := rfl
@[simp] theorem setPtr_refusals (v : Nat) : (setPtr s v).refusals = s.refusals := rfl
@[simp] theorem setPtr_mem (v : Nat) : (setPtr s v).mem = s.mem := rfl
@[simp] theorem setPtr_unreadable (v : Nat) : (setPtr s v).unreadable = s.unreadable := rfl
@[simp] theorem setPtr_inputs (v : Nat) : (setPtr s v).inputs = s.inputs := rfl
@[simp] theorem setPtr_program (v : Nat) : (setPtr s v).program = s.program := rfl
@[simp] theorem setPtr_replies (v : Nat) : (setPtr s v).replies = s.replies := rfl
@[simp] theorem setPtr_draws (v : Nat) : (setPtr s v).draws = s.draws := rfl

/-! ### setRem -/

@[simp] theorem setRem_cfg (v : Nat) : (setRem s v).cfg = s.cfg := rfl
@[simp] theorem setRem_adlerIn (v : Nat) : (setRem s v).adlerIn = s.adlerIn := rfl
@[simp] theorem setRem_adlerOut (v : Nat) : (setRem s v).adlerOut = s.adlerOut := rfl
@[simp] theorem setRem_bufAddrLo (v : Nat) : (setRem s v).bufAddrLo = s.bufAddrLo := rfl
@[simp] theorem setRem_bufAddrHi (v : Nat) : (setRem s v).bufAddrHi = s.bufAddrHi := rfl
@[simp] theorem setRem_bufLenLo (v : Nat) : (setRem s v).bufLenLo = s.bufLenLo := rfl
@[simp] theorem setRem_bufLenHi (v : Nat) : (setRem s v).bufLenHi = s.bufLenHi := rfl
@[simp] theorem setRem_busy (v : Nat) : (setRem s v).busy = s.busy := rfl
@[simp] theorem setRem_done (v : Nat) : (setRem s v).done = s.done := rfl
@[simp] theorem setRem_written (v : Nat) : (setRem s v).written = s.written := rfl
@[simp] theorem setRem_s1 (v : Nat) : (setRem s v).s1 = s.s1 := rfl
@[simp] theorem setRem_s2 (v : Nat) : (setRem s v).s2 = s.s2 := rfl
@[simp] theorem setRem_ptr (v : Nat) : (setRem s v).ptr = s.ptr := rfl
@[simp] theorem setRem_rem (v : Nat) : (setRem s v).rem = BitVec.ofNat 64 (v % lenSpace s) := rfl
@[simp] theorem setRem_head (v : Nat) : (setRem s v).head = s.head := rfl
@[simp] theorem setRem_chunk (v : Nat) : (setRem s v).chunk = s.chunk := rfl
@[simp] theorem setRem_vs1 (v : Nat) : (setRem s v).vs1 = s.vs1 := rfl
@[simp] theorem setRem_vs2 (v : Nat) : (setRem s v).vs2 = s.vs2 := rfl
@[simp] theorem setRem_inv (v : Nat) : (setRem s v).inv = s.inv := rfl
@[simp] theorem setRem_seq (v : Nat) : (setRem s v).seq = s.seq := rfl
@[simp] theorem setRem_faults (v : Nat) : (setRem s v).faults = s.faults := rfl
@[simp] theorem setRem_refusalMark (v : Nat) : (setRem s v).refusalMark = s.refusalMark := rfl
@[simp] theorem setRem_refusals (v : Nat) : (setRem s v).refusals = s.refusals := rfl
@[simp] theorem setRem_mem (v : Nat) : (setRem s v).mem = s.mem := rfl
@[simp] theorem setRem_unreadable (v : Nat) : (setRem s v).unreadable = s.unreadable := rfl
@[simp] theorem setRem_inputs (v : Nat) : (setRem s v).inputs = s.inputs := rfl
@[simp] theorem setRem_program (v : Nat) : (setRem s v).program = s.program := rfl
@[simp] theorem setRem_replies (v : Nat) : (setRem s v).replies = s.replies := rfl
@[simp] theorem setRem_draws (v : Nat) : (setRem s v).draws = s.draws := rfl

/-! ### consume -/

@[simp] theorem consume_cfg (n : Nat) : (consume s n).cfg = s.cfg := rfl
@[simp] theorem consume_adlerIn (n : Nat) : (consume s n).adlerIn = s.adlerIn := rfl
@[simp] theorem consume_adlerOut (n : Nat) : (consume s n).adlerOut = s.adlerOut := rfl
@[simp] theorem consume_bufAddrLo (n : Nat) : (consume s n).bufAddrLo = s.bufAddrLo := rfl
@[simp] theorem consume_bufAddrHi (n : Nat) : (consume s n).bufAddrHi = s.bufAddrHi := rfl
@[simp] theorem consume_bufLenLo (n : Nat) : (consume s n).bufLenLo = s.bufLenLo := rfl
@[simp] theorem consume_bufLenHi (n : Nat) : (consume s n).bufLenHi = s.bufLenHi := rfl
@[simp] theorem consume_busy (n : Nat) : (consume s n).busy = s.busy := rfl
@[simp] theorem consume_done (n : Nat) : (consume s n).done = s.done := rfl
@[simp] theorem consume_written (n : Nat) : (consume s n).written = s.written := rfl
@[simp] theorem consume_s1 (n : Nat) : (consume s n).s1 = s.s1 := rfl
@[simp] theorem consume_s2 (n : Nat) : (consume s n).s2 = s.s2 := rfl
@[simp] theorem consume_ptr (n : Nat) : (consume s n).ptr = BitVec.ofNat 64 ((s.ptr.toNat + n) % addrSpace s) := rfl
@[simp] theorem consume_rem (n : Nat) : (consume s n).rem = BitVec.ofNat 64 ((s.rem.toNat + (lenSpace s - n)) % lenSpace s) := rfl
@[simp] theorem consume_head (n : Nat) : (consume s n).head = s.head := rfl
@[simp] theorem consume_chunk (n : Nat) : (consume s n).chunk = s.chunk := rfl
@[simp] theorem consume_vs1 (n : Nat) : (consume s n).vs1 = s.vs1 := rfl
@[simp] theorem consume_vs2 (n : Nat) : (consume s n).vs2 = s.vs2 := rfl
@[simp] theorem consume_inv (n : Nat) : (consume s n).inv = s.inv := rfl
@[simp] theorem consume_seq (n : Nat) : (consume s n).seq = s.seq := rfl
@[simp] theorem consume_faults (n : Nat) : (consume s n).faults = s.faults := rfl
@[simp] theorem consume_refusalMark (n : Nat) : (consume s n).refusalMark = s.refusalMark := rfl
@[simp] theorem consume_refusals (n : Nat) : (consume s n).refusals = s.refusals := rfl
@[simp] theorem consume_mem (n : Nat) : (consume s n).mem = s.mem := rfl
@[simp] theorem consume_unreadable (n : Nat) : (consume s n).unreadable = s.unreadable := rfl
@[simp] theorem consume_inputs (n : Nat) : (consume s n).inputs = s.inputs := rfl
@[simp] theorem consume_program (n : Nat) : (consume s n).program = s.program := rfl
@[simp] theorem consume_replies (n : Nat) : (consume s n).replies = s.replies := rfl
@[simp] theorem consume_draws (n : Nat) : (consume s n).draws = s.draws := rfl

/-! ### recordFault -/

@[simp] theorem recordFault_cfg (r : FaultReason) : (recordFault s r).cfg = s.cfg := rfl
@[simp] theorem recordFault_adlerIn (r : FaultReason) : (recordFault s r).adlerIn = s.adlerIn := rfl
@[simp] theorem recordFault_adlerOut (r : FaultReason) : (recordFault s r).adlerOut = s.adlerOut := rfl
@[simp] theorem recordFault_bufAddrLo (r : FaultReason) : (recordFault s r).bufAddrLo = s.bufAddrLo := rfl
@[simp] theorem recordFault_bufAddrHi (r : FaultReason) : (recordFault s r).bufAddrHi = s.bufAddrHi := rfl
@[simp] theorem recordFault_bufLenLo (r : FaultReason) : (recordFault s r).bufLenLo = s.bufLenLo := rfl
@[simp] theorem recordFault_bufLenHi (r : FaultReason) : (recordFault s r).bufLenHi = s.bufLenHi := rfl
@[simp] theorem recordFault_busy (r : FaultReason) : (recordFault s r).busy = s.busy := rfl
@[simp] theorem recordFault_done (r : FaultReason) : (recordFault s r).done = s.done := rfl
@[simp] theorem recordFault_written (r : FaultReason) : (recordFault s r).written = s.written := rfl
@[simp] theorem recordFault_s1 (r : FaultReason) : (recordFault s r).s1 = s.s1 := rfl
@[simp] theorem recordFault_s2 (r : FaultReason) : (recordFault s r).s2 = s.s2 := rfl
@[simp] theorem recordFault_ptr (r : FaultReason) : (recordFault s r).ptr = s.ptr := rfl
@[simp] theorem recordFault_rem (r : FaultReason) : (recordFault s r).rem = s.rem := rfl
@[simp] theorem recordFault_head (r : FaultReason) : (recordFault s r).head = s.head := rfl
@[simp] theorem recordFault_chunk (r : FaultReason) : (recordFault s r).chunk = s.chunk := rfl
@[simp] theorem recordFault_vs1 (r : FaultReason) : (recordFault s r).vs1 = s.vs1 := rfl
@[simp] theorem recordFault_vs2 (r : FaultReason) : (recordFault s r).vs2 = s.vs2 := rfl
@[simp] theorem recordFault_inv (r : FaultReason) : (recordFault s r).inv = s.inv := rfl
@[simp] theorem recordFault_seq (r : FaultReason) : (recordFault s r).seq = s.seq := rfl
@[simp] theorem recordFault_faults (r : FaultReason) : (recordFault s r).faults = addReason s.faults r := rfl
@[simp] theorem recordFault_refusalMark (r : FaultReason) : (recordFault s r).refusalMark = s.refusalMark := rfl
@[simp] theorem recordFault_refusals (r : FaultReason) : (recordFault s r).refusals = s.refusals := rfl
@[simp] theorem recordFault_mem (r : FaultReason) : (recordFault s r).mem = s.mem := rfl
@[simp] theorem recordFault_unreadable (r : FaultReason) : (recordFault s r).unreadable = s.unreadable := rfl
@[simp] theorem recordFault_inputs (r : FaultReason) : (recordFault s r).inputs = s.inputs := rfl
@[simp] theorem recordFault_program (r : FaultReason) : (recordFault s r).program = s.program := rfl
@[simp] theorem recordFault_replies (r : FaultReason) : (recordFault s r).replies = s.replies := rfl
@[simp] theorem recordFault_draws (r : FaultReason) : (recordFault s r).draws = s.draws := rfl

/-! ### refuse -/

@[simp] theorem refuse_cfg (r : RefusalReason) : (refuse s r).cfg = s.cfg := rfl
@[simp] theorem refuse_adlerIn (r : RefusalReason) : (refuse s r).adlerIn = s.adlerIn := rfl
@[simp] theorem refuse_adlerOut (r : RefusalReason) : (refuse s r).adlerOut = s.adlerOut := rfl
@[simp] theorem refuse_bufAddrLo (r : RefusalReason) : (refuse s r).bufAddrLo = s.bufAddrLo := rfl
@[simp] theorem refuse_bufAddrHi (r : RefusalReason) : (refuse s r).bufAddrHi = s.bufAddrHi := rfl
@[simp] theorem refuse_bufLenLo (r : RefusalReason) : (refuse s r).bufLenLo = s.bufLenLo := rfl
@[simp] theorem refuse_bufLenHi (r : RefusalReason) : (refuse s r).bufLenHi = s.bufLenHi := rfl
@[simp] theorem refuse_busy (r : RefusalReason) : (refuse s r).busy = s.busy := rfl
@[simp] theorem refuse_done (r : RefusalReason) : (refuse s r).done = s.done := rfl
@[simp] theorem refuse_written (r : RefusalReason) : (refuse s r).written = s.written := rfl
@[simp] theorem refuse_s1 (r : RefusalReason) : (refuse s r).s1 = s.s1 := rfl
@[simp] theorem refuse_s2 (r : RefusalReason) : (refuse s r).s2 = s.s2 := rfl
@[simp] theorem refuse_ptr (r : RefusalReason) : (refuse s r).ptr = s.ptr := rfl
@[simp] theorem refuse_rem (r : RefusalReason) : (refuse s r).rem = s.rem := rfl
@[simp] theorem refuse_head (r : RefusalReason) : (refuse s r).head = s.head := rfl
@[simp] theorem refuse_chunk (r : RefusalReason) : (refuse s r).chunk = s.chunk := rfl
@[simp] theorem refuse_vs1 (r : RefusalReason) : (refuse s r).vs1 = s.vs1 := rfl
@[simp] theorem refuse_vs2 (r : RefusalReason) : (refuse s r).vs2 = s.vs2 := rfl
@[simp] theorem refuse_inv (r : RefusalReason) : (refuse s r).inv = s.inv := rfl
@[simp] theorem refuse_seq (r : RefusalReason) : (refuse s r).seq = s.seq := rfl
@[simp] theorem refuse_faults (r : RefusalReason) : (refuse s r).faults = s.faults := rfl
@[simp] theorem refuse_refusalMark (r : RefusalReason) : (refuse s r).refusalMark = true := rfl
@[simp] theorem refuse_refusals (r : RefusalReason) : (refuse s r).refusals = addReason s.refusals r := rfl
@[simp] theorem refuse_mem (r : RefusalReason) : (refuse s r).mem = s.mem := rfl
@[simp] theorem refuse_unreadable (r : RefusalReason) : (refuse s r).unreadable = s.unreadable := rfl
@[simp] theorem refuse_inputs (r : RefusalReason) : (refuse s r).inputs = s.inputs := rfl
@[simp] theorem refuse_program (r : RefusalReason) : (refuse s r).program = s.program := rfl
@[simp] theorem refuse_replies (r : RefusalReason) : (refuse s r).replies = s.replies := rfl
@[simp] theorem refuse_draws (r : RefusalReason) : (refuse s r).draws = s.draws := rfl

/-! ### countDraw -/

@[simp] theorem countDraw_cfg : (countDraw s).cfg = s.cfg := rfl
@[simp] theorem countDraw_adlerIn : (countDraw s).adlerIn = s.adlerIn := rfl
@[simp] theorem countDraw_adlerOut : (countDraw s).adlerOut = s.adlerOut := rfl
@[simp] theorem countDraw_bufAddrLo : (countDraw s).bufAddrLo = s.bufAddrLo := rfl
@[simp] theorem countDraw_bufAddrHi : (countDraw s).bufAddrHi = s.bufAddrHi := rfl
@[simp] theorem countDraw_bufLenLo : (countDraw s).bufLenLo = s.bufLenLo := rfl
@[simp] theorem countDraw_bufLenHi : (countDraw s).bufLenHi = s.bufLenHi := rfl
@[simp] theorem countDraw_busy : (countDraw s).busy = s.busy := rfl
@[simp] theorem countDraw_done : (countDraw s).done = s.done := rfl
@[simp] theorem countDraw_written : (countDraw s).written = s.written := rfl
@[simp] theorem countDraw_s1 : (countDraw s).s1 = s.s1 := rfl
@[simp] theorem countDraw_s2 : (countDraw s).s2 = s.s2 := rfl
@[simp] theorem countDraw_ptr : (countDraw s).ptr = s.ptr := rfl
@[simp] theorem countDraw_rem : (countDraw s).rem = s.rem := rfl
@[simp] theorem countDraw_head : (countDraw s).head = s.head := rfl
@[simp] theorem countDraw_chunk : (countDraw s).chunk = s.chunk := rfl
@[simp] theorem countDraw_vs1 : (countDraw s).vs1 = s.vs1 := rfl
@[simp] theorem countDraw_vs2 : (countDraw s).vs2 = s.vs2 := rfl
@[simp] theorem countDraw_inv : (countDraw s).inv = s.inv := rfl
@[simp] theorem countDraw_seq : (countDraw s).seq = s.seq := rfl
@[simp] theorem countDraw_faults : (countDraw s).faults = s.faults := rfl
@[simp] theorem countDraw_refusalMark : (countDraw s).refusalMark = s.refusalMark := rfl
@[simp] theorem countDraw_refusals : (countDraw s).refusals = s.refusals := rfl
@[simp] theorem countDraw_mem : (countDraw s).mem = s.mem := rfl
@[simp] theorem countDraw_unreadable : (countDraw s).unreadable = s.unreadable := rfl
@[simp] theorem countDraw_inputs : (countDraw s).inputs = s.inputs := rfl
@[simp] theorem countDraw_program : (countDraw s).program = s.program := rfl
@[simp] theorem countDraw_replies : (countDraw s).replies = s.replies := rfl
@[simp] theorem countDraw_draws : (countDraw s).draws = s.draws + 1 := rfl

/-! ### reply -/

@[simp] theorem reply_cfg (o : Nat) (v : Word) : (reply s o v).cfg = s.cfg := rfl
@[simp] theorem reply_adlerIn (o : Nat) (v : Word) : (reply s o v).adlerIn = s.adlerIn := rfl
@[simp] theorem reply_adlerOut (o : Nat) (v : Word) : (reply s o v).adlerOut = s.adlerOut := rfl
@[simp] theorem reply_bufAddrLo (o : Nat) (v : Word) : (reply s o v).bufAddrLo = s.bufAddrLo := rfl
@[simp] theorem reply_bufAddrHi (o : Nat) (v : Word) : (reply s o v).bufAddrHi = s.bufAddrHi := rfl
@[simp] theorem reply_bufLenLo (o : Nat) (v : Word) : (reply s o v).bufLenLo = s.bufLenLo := rfl
@[simp] theorem reply_bufLenHi (o : Nat) (v : Word) : (reply s o v).bufLenHi = s.bufLenHi := rfl
@[simp] theorem reply_busy (o : Nat) (v : Word) : (reply s o v).busy = s.busy := rfl
@[simp] theorem reply_done (o : Nat) (v : Word) : (reply s o v).done = s.done := rfl
@[simp] theorem reply_written (o : Nat) (v : Word) : (reply s o v).written = s.written := rfl
@[simp] theorem reply_s1 (o : Nat) (v : Word) : (reply s o v).s1 = s.s1 := rfl
@[simp] theorem reply_s2 (o : Nat) (v : Word) : (reply s o v).s2 = s.s2 := rfl
@[simp] theorem reply_ptr (o : Nat) (v : Word) : (reply s o v).ptr = s.ptr := rfl
@[simp] theorem reply_rem (o : Nat) (v : Word) : (reply s o v).rem = s.rem := rfl
@[simp] theorem reply_head (o : Nat) (v : Word) : (reply s o v).head = s.head := rfl
@[simp] theorem reply_chunk (o : Nat) (v : Word) : (reply s o v).chunk = s.chunk := rfl
@[simp] theorem reply_vs1 (o : Nat) (v : Word) : (reply s o v).vs1 = s.vs1 := rfl
@[simp] theorem reply_vs2 (o : Nat) (v : Word) : (reply s o v).vs2 = s.vs2 := rfl
@[simp] theorem reply_inv (o : Nat) (v : Word) : (reply s o v).inv = s.inv := rfl
@[simp] theorem reply_seq (o : Nat) (v : Word) : (reply s o v).seq = s.seq := rfl
@[simp] theorem reply_faults (o : Nat) (v : Word) : (reply s o v).faults = s.faults := rfl
@[simp] theorem reply_refusalMark (o : Nat) (v : Word) : (reply s o v).refusalMark = s.refusalMark := rfl
@[simp] theorem reply_refusals (o : Nat) (v : Word) : (reply s o v).refusals = s.refusals := rfl
@[simp] theorem reply_mem (o : Nat) (v : Word) : (reply s o v).mem = s.mem := rfl
@[simp] theorem reply_unreadable (o : Nat) (v : Word) : (reply s o v).unreadable = s.unreadable := rfl
@[simp] theorem reply_inputs (o : Nat) (v : Word) : (reply s o v).inputs = s.inputs := rfl
@[simp] theorem reply_program (o : Nat) (v : Word) : (reply s o v).program = s.program := rfl
@[simp] theorem reply_replies (o : Nat) (v : Word) : (reply s o v).replies = s.replies ++ [⟨o, v⟩] := rfl
@[simp] theorem reply_draws (o : Nat) (v : Word) : (reply s o v).draws = s.draws := rfl

/-! ### writeResult -/

@[simp] theorem writeResult_cfg (v : Word) : (writeResult s v).cfg = s.cfg := rfl
@[simp] theorem writeResult_adlerIn (v : Word) : (writeResult s v).adlerIn = s.adlerIn := rfl
@[simp] theorem writeResult_adlerOut (v : Word) : (writeResult s v).adlerOut = v := rfl
@[simp] theorem writeResult_bufAddrLo (v : Word) : (writeResult s v).bufAddrLo = s.bufAddrLo := rfl
@[simp] theorem writeResult_bufAddrHi (v : Word) : (writeResult s v).bufAddrHi = s.bufAddrHi := rfl
@[simp] theorem writeResult_bufLenLo (v : Word) : (writeResult s v).bufLenLo = s.bufLenLo := rfl
@[simp] theorem writeResult_bufLenHi (v : Word) : (writeResult s v).bufLenHi = s.bufLenHi := rfl
@[simp] theorem writeResult_busy (v : Word) : (writeResult s v).busy = s.busy := rfl
@[simp] theorem writeResult_done (v : Word) : (writeResult s v).done = s.done := rfl
@[simp] theorem writeResult_written (v : Word) : (writeResult s v).written = { s.written with adlerOut := true } := rfl
@[simp] theorem writeResult_s1 (v : Word) : (writeResult s v).s1 = s.s1 := rfl
@[simp] theorem writeResult_s2 (v : Word) : (writeResult s v).s2 = s.s2 := rfl
@[simp] theorem writeResult_ptr (v : Word) : (writeResult s v).ptr = s.ptr := rfl
@[simp] theorem writeResult_rem (v : Word) : (writeResult s v).rem = s.rem := rfl
@[simp] theorem writeResult_head (v : Word) : (writeResult s v).head = s.head := rfl
@[simp] theorem writeResult_chunk (v : Word) : (writeResult s v).chunk = s.chunk := rfl
@[simp] theorem writeResult_vs1 (v : Word) : (writeResult s v).vs1 = s.vs1 := rfl
@[simp] theorem writeResult_vs2 (v : Word) : (writeResult s v).vs2 = s.vs2 := rfl
@[simp] theorem writeResult_inv (v : Word) : (writeResult s v).inv = s.inv := rfl
@[simp] theorem writeResult_seq (v : Word) : (writeResult s v).seq = s.seq := rfl
@[simp] theorem writeResult_faults (v : Word) : (writeResult s v).faults = s.faults := rfl
@[simp] theorem writeResult_refusalMark (v : Word) : (writeResult s v).refusalMark = s.refusalMark := rfl
@[simp] theorem writeResult_refusals (v : Word) : (writeResult s v).refusals = s.refusals := rfl
@[simp] theorem writeResult_mem (v : Word) : (writeResult s v).mem = s.mem := rfl
@[simp] theorem writeResult_unreadable (v : Word) : (writeResult s v).unreadable = s.unreadable := rfl
@[simp] theorem writeResult_inputs (v : Word) : (writeResult s v).inputs = s.inputs := rfl
@[simp] theorem writeResult_program (v : Word) : (writeResult s v).program = s.program := rfl
@[simp] theorem writeResult_replies (v : Word) : (writeResult s v).replies = s.replies := rfl
@[simp] theorem writeResult_draws (v : Word) : (writeResult s v).draws = s.draws := rfl

/-! ### setBusy -/

@[simp] theorem setBusy_cfg : (setBusy s).cfg = s.cfg := rfl
@[simp] theorem setBusy_adlerIn : (setBusy s).adlerIn = s.adlerIn := rfl
@[simp] theorem setBusy_adlerOut : (setBusy s).adlerOut = s.adlerOut := rfl
@[simp] theorem setBusy_bufAddrLo : (setBusy s).bufAddrLo = s.bufAddrLo := rfl
@[simp] theorem setBusy_bufAddrHi : (setBusy s).bufAddrHi = s.bufAddrHi := rfl
@[simp] theorem setBusy_bufLenLo : (setBusy s).bufLenLo = s.bufLenLo := rfl
@[simp] theorem setBusy_bufLenHi : (setBusy s).bufLenHi = s.bufLenHi := rfl
@[simp] theorem setBusy_busy : (setBusy s).busy = true := rfl
@[simp] theorem setBusy_done : (setBusy s).done = false := rfl
@[simp] theorem setBusy_written : (setBusy s).written = s.written := rfl
@[simp] theorem setBusy_s1 : (setBusy s).s1 = s.s1 := rfl
@[simp] theorem setBusy_s2 : (setBusy s).s2 = s.s2 := rfl
@[simp] theorem setBusy_ptr : (setBusy s).ptr = s.ptr := rfl
@[simp] theorem setBusy_rem : (setBusy s).rem = s.rem := rfl
@[simp] theorem setBusy_head : (setBusy s).head = s.head := rfl
@[simp] theorem setBusy_chunk : (setBusy s).chunk = s.chunk := rfl
@[simp] theorem setBusy_vs1 : (setBusy s).vs1 = s.vs1 := rfl
@[simp] theorem setBusy_vs2 : (setBusy s).vs2 = s.vs2 := rfl
@[simp] theorem setBusy_inv : (setBusy s).inv = s.inv := rfl
@[simp] theorem setBusy_seq : (setBusy s).seq = s.seq := rfl
@[simp] theorem setBusy_faults : (setBusy s).faults = s.faults := rfl
@[simp] theorem setBusy_refusalMark : (setBusy s).refusalMark = s.refusalMark := rfl
@[simp] theorem setBusy_refusals : (setBusy s).refusals = s.refusals := rfl
@[simp] theorem setBusy_mem : (setBusy s).mem = s.mem := rfl
@[simp] theorem setBusy_unreadable : (setBusy s).unreadable = s.unreadable := rfl
@[simp] theorem setBusy_inputs : (setBusy s).inputs = s.inputs := rfl
@[simp] theorem setBusy_program : (setBusy s).program = s.program := rfl
@[simp] theorem setBusy_replies : (setBusy s).replies = s.replies := rfl
@[simp] theorem setBusy_draws : (setBusy s).draws = s.draws := rfl

/-! ### setDone -/

@[simp] theorem setDone_cfg : (setDone s).cfg = s.cfg := rfl
@[simp] theorem setDone_adlerIn : (setDone s).adlerIn = s.adlerIn := rfl
@[simp] theorem setDone_adlerOut : (setDone s).adlerOut = s.adlerOut := rfl
@[simp] theorem setDone_bufAddrLo : (setDone s).bufAddrLo = s.bufAddrLo := rfl
@[simp] theorem setDone_bufAddrHi : (setDone s).bufAddrHi = s.bufAddrHi := rfl
@[simp] theorem setDone_bufLenLo : (setDone s).bufLenLo = s.bufLenLo := rfl
@[simp] theorem setDone_bufLenHi : (setDone s).bufLenHi = s.bufLenHi := rfl
@[simp] theorem setDone_busy : (setDone s).busy = false := rfl
@[simp] theorem setDone_done : (setDone s).done = true := rfl
@[simp] theorem setDone_written : (setDone s).written = s.written := rfl
@[simp] theorem setDone_s1 : (setDone s).s1 = s.s1 := rfl
@[simp] theorem setDone_s2 : (setDone s).s2 = s.s2 := rfl
@[simp] theorem setDone_ptr : (setDone s).ptr = s.ptr := rfl
@[simp] theorem setDone_rem : (setDone s).rem = s.rem := rfl
@[simp] theorem setDone_head : (setDone s).head = s.head := rfl
@[simp] theorem setDone_chunk : (setDone s).chunk = s.chunk := rfl
@[simp] theorem setDone_vs1 : (setDone s).vs1 = s.vs1 := rfl
@[simp] theorem setDone_vs2 : (setDone s).vs2 = s.vs2 := rfl
@[simp] theorem setDone_inv : (setDone s).inv = s.inv := rfl
@[simp] theorem setDone_seq : (setDone s).seq = s.seq := rfl
@[simp] theorem setDone_faults : (setDone s).faults = s.faults := rfl
@[simp] theorem setDone_refusalMark : (setDone s).refusalMark = s.refusalMark := rfl
@[simp] theorem setDone_refusals : (setDone s).refusals = s.refusals := rfl
@[simp] theorem setDone_mem : (setDone s).mem = s.mem := rfl
@[simp] theorem setDone_unreadable : (setDone s).unreadable = s.unreadable := rfl
@[simp] theorem setDone_inputs : (setDone s).inputs = s.inputs := rfl
@[simp] theorem setDone_program : (setDone s).program = s.program := rfl
@[simp] theorem setDone_replies : (setDone s).replies = s.replies := rfl
@[simp] theorem setDone_draws : (setDone s).draws = s.draws := rfl

/-! ### startChunk -/

@[simp] theorem startChunk_cfg : (startChunk s).cfg = s.cfg := rfl
@[simp] theorem startChunk_adlerIn : (startChunk s).adlerIn = s.adlerIn := rfl
@[simp] theorem startChunk_adlerOut : (startChunk s).adlerOut = s.adlerOut := rfl
@[simp] theorem startChunk_bufAddrLo : (startChunk s).bufAddrLo = s.bufAddrLo := rfl
@[simp] theorem startChunk_bufAddrHi : (startChunk s).bufAddrHi = s.bufAddrHi := rfl
@[simp] theorem startChunk_bufLenLo : (startChunk s).bufLenLo = s.bufLenLo := rfl
@[simp] theorem startChunk_bufLenHi : (startChunk s).bufLenHi = s.bufLenHi := rfl
@[simp] theorem startChunk_busy : (startChunk s).busy = s.busy := rfl
@[simp] theorem startChunk_done : (startChunk s).done = s.done := rfl
@[simp] theorem startChunk_written : (startChunk s).written = s.written := rfl
@[simp] theorem startChunk_s1 : (startChunk s).s1 = s.s1 := rfl
@[simp] theorem startChunk_s2 : (startChunk s).s2 = s.s2 := rfl
@[simp] theorem startChunk_ptr : (startChunk s).ptr = s.ptr := rfl
@[simp] theorem startChunk_rem : (startChunk s).rem = s.rem := rfl
@[simp] theorem startChunk_head : (startChunk s).head = s.head := rfl
@[simp] theorem startChunk_chunk : (startChunk s).chunk = BitVec.ofNat 14 (chunkLength s.cfg s.rem.toNat) := rfl
@[simp] theorem startChunk_vs1 : (startChunk s).vs1 = s.vs1 := rfl
@[simp] theorem startChunk_vs2 : (startChunk s).vs2 = s.vs2 := rfl
@[simp] theorem startChunk_inv : (startChunk s).inv = s.inv := rfl
@[simp] theorem startChunk_seq : (startChunk s).seq = s.seq := rfl
@[simp] theorem startChunk_faults : (startChunk s).faults = s.faults := rfl
@[simp] theorem startChunk_refusalMark : (startChunk s).refusalMark = s.refusalMark := rfl
@[simp] theorem startChunk_refusals : (startChunk s).refusals = s.refusals := rfl
@[simp] theorem startChunk_mem : (startChunk s).mem = s.mem := rfl
@[simp] theorem startChunk_unreadable : (startChunk s).unreadable = s.unreadable := rfl
@[simp] theorem startChunk_inputs : (startChunk s).inputs = s.inputs := rfl
@[simp] theorem startChunk_program : (startChunk s).program = s.program := rfl
@[simp] theorem startChunk_replies : (startChunk s).replies = s.replies := rfl
@[simp] theorem startChunk_draws : (startChunk s).draws = s.draws := rfl

/-! ### foldBoth -/

@[simp] theorem foldBoth_cfg : (foldBoth s).cfg = s.cfg := rfl
@[simp] theorem foldBoth_adlerIn : (foldBoth s).adlerIn = s.adlerIn := rfl
@[simp] theorem foldBoth_adlerOut : (foldBoth s).adlerOut = s.adlerOut := rfl
@[simp] theorem foldBoth_bufAddrLo : (foldBoth s).bufAddrLo = s.bufAddrLo := rfl
@[simp] theorem foldBoth_bufAddrHi : (foldBoth s).bufAddrHi = s.bufAddrHi := rfl
@[simp] theorem foldBoth_bufLenLo : (foldBoth s).bufLenLo = s.bufLenLo := rfl
@[simp] theorem foldBoth_bufLenHi : (foldBoth s).bufLenHi = s.bufLenHi := rfl
@[simp] theorem foldBoth_busy : (foldBoth s).busy = s.busy := rfl
@[simp] theorem foldBoth_done : (foldBoth s).done = s.done := rfl
@[simp] theorem foldBoth_written : (foldBoth s).written = s.written := rfl
@[simp] theorem foldBoth_s1 : (foldBoth s).s1 = s.s1 := rfl
@[simp] theorem foldBoth_s2 : (foldBoth s).s2 = s.s2 := rfl
@[simp] theorem foldBoth_ptr : (foldBoth s).ptr = s.ptr := rfl
@[simp] theorem foldBoth_rem : (foldBoth s).rem = s.rem := rfl
@[simp] theorem foldBoth_head : (foldBoth s).head = s.head := rfl
@[simp] theorem foldBoth_chunk : (foldBoth s).chunk = s.chunk := rfl
@[simp] theorem foldBoth_vs1 : (foldBoth s).vs1 = foldLanes s.vs1 := rfl
@[simp] theorem foldBoth_vs2 : (foldBoth s).vs2 = foldLanes s.vs2 := rfl
@[simp] theorem foldBoth_inv : (foldBoth s).inv = s.inv := rfl
@[simp] theorem foldBoth_seq : (foldBoth s).seq = s.seq := rfl
@[simp] theorem foldBoth_faults : (foldBoth s).faults = s.faults := rfl
@[simp] theorem foldBoth_refusalMark : (foldBoth s).refusalMark = s.refusalMark := rfl
@[simp] theorem foldBoth_refusals : (foldBoth s).refusals = s.refusals := rfl
@[simp] theorem foldBoth_mem : (foldBoth s).mem = s.mem := rfl
@[simp] theorem foldBoth_unreadable : (foldBoth s).unreadable = s.unreadable := rfl
@[simp] theorem foldBoth_inputs : (foldBoth s).inputs = s.inputs := rfl
@[simp] theorem foldBoth_program : (foldBoth s).program = s.program := rfl
@[simp] theorem foldBoth_replies : (foldBoth s).replies = s.replies := rfl
@[simp] theorem foldBoth_draws : (foldBoth s).draws = s.draws := rfl

/-! ### advance -/

@[simp] theorem advance_cfg : (advance s).cfg = s.cfg := rfl
@[simp] theorem advance_adlerIn : (advance s).adlerIn = s.adlerIn := rfl
@[simp] theorem advance_adlerOut : (advance s).adlerOut = s.adlerOut := rfl
@[simp] theorem advance_bufAddrLo : (advance s).bufAddrLo = s.bufAddrLo := rfl
@[simp] theorem advance_bufAddrHi : (advance s).bufAddrHi = s.bufAddrHi := rfl
@[simp] theorem advance_bufLenLo : (advance s).bufLenLo = s.bufLenLo := rfl
@[simp] theorem advance_bufLenHi : (advance s).bufLenHi = s.bufLenHi := rfl
@[simp] theorem advance_busy : (advance s).busy = s.busy := rfl
@[simp] theorem advance_done : (advance s).done = s.done := rfl
@[simp] theorem advance_written : (advance s).written = s.written := rfl
@[simp] theorem advance_s1 : (advance s).s1 = s.s1 := rfl
@[simp] theorem advance_s2 : (advance s).s2 = s.s2 := rfl
@[simp] theorem advance_ptr : (advance s).ptr = s.ptr := rfl
@[simp] theorem advance_rem : (advance s).rem = s.rem := rfl
@[simp] theorem advance_head : (advance s).head = s.head := rfl
@[simp] theorem advance_chunk : (advance s).chunk = s.chunk := rfl
@[simp] theorem advance_vs1 : (advance s).vs1 = s.vs1 := rfl
@[simp] theorem advance_vs2 : (advance s).vs2 = s.vs2 := rfl
@[simp] theorem advance_inv : (advance s).inv = s.inv := rfl
@[simp] theorem advance_seq : (advance s).seq = successor s.seq s := rfl
@[simp] theorem advance_faults : (advance s).faults = s.faults := rfl
@[simp] theorem advance_refusalMark : (advance s).refusalMark = s.refusalMark := rfl
@[simp] theorem advance_refusals : (advance s).refusals = s.refusals := rfl
@[simp] theorem advance_mem : (advance s).mem = s.mem := rfl
@[simp] theorem advance_unreadable : (advance s).unreadable = s.unreadable := rfl
@[simp] theorem advance_inputs : (advance s).inputs = s.inputs := rfl
@[simp] theorem advance_program : (advance s).program = s.program := rfl
@[simp] theorem advance_replies : (advance s).replies = s.replies := rfl
@[simp] theorem advance_draws : (advance s).draws = s.draws := rfl

end Sys2Proof.Machine
end

