-- ==== Sys2Proof/Laws/Operands.lean ====
section
/-! SUPPORT. The halves of a word as numbers, the bytes of a packed vector read, and which fields an operand depends on. -/

namespace Sys2Proof.Machine

theorem lowHalf_toNat (v : Word) : (lowHalf v).toNat = v.toNat % 2 ^ 16 := by
  have := v.isLt
  simp [lowHalf]
  omega

theorem highHalf_toNat (v : Word) : (highHalf v).toNat = v.toNat / 2 ^ 16 := by
  have := v.isLt
  simp [highHalf, Nat.shiftRight_eq_div_pow]
  omega

/-- A byte of the packing, first byte lowest. -/
theorem packBytes_byte (bs : List Byte) (k : Nat) (h : k < bs.length) (hl : bs.length ≤ 16) :
    (packBytes bs).extractLsb' (8 * k) 8 = bs[k] := by
  induction bs generalizing k with
  | nil => simp at h
  | cons b rest ih =>
    cases k with
    | zero =>
      ext i hi
      have h1 : i < 128 := by omega
      simp only [BitVec.getElem_extractLsb', packBytes, BitVec.getLsbD_or, BitVec.getLsbD_shiftLeft,
        BitVec.getLsbD_setWidth, Nat.mul_zero, Nat.zero_add, h1, hi, decide_true, Bool.true_and, Bool.not_true,
        Bool.false_and, Bool.false_or, List.getElem_cons_zero]
      exact BitVec.getLsbD_eq_getElem hi
    | succ k =>
      have hk : k < rest.length := by simpa using h
      have hl' : rest.length ≤ 16 := by simp at hl; omega
      have hk16 : k + 1 < 16 := by simp at hl; omega
      rw [List.getElem_cons_succ, ← ih k hk hl']
      ext i hi
      have h1 : 8 * (k + 1) + i < 128 := by omega
      have h2 : 8 * (k + 1) + i - 8 = 8 * k + i := by omega
      have h3 : ¬ 8 * (k + 1) + i < 8 := by omega
      simp only [BitVec.getElem_extractLsb', packBytes, BitVec.getLsbD_or, BitVec.getLsbD_shiftLeft,
        BitVec.getLsbD_setWidth, h1, h2, h3, decide_true, decide_false, Bool.true_and, Bool.not_false]
      rw [BitVec.getLsbD_of_ge b _ (by omega)]
      simp

/-- Either packing gives back the byte at each stream position (20_memory.md R63). -/
theorem vecByte_packVec (p : VecPack) (bs : List Byte) (hl : bs.length = Config.width) (k : Nat) (h : k < bs.length) :
    vecByte p (packVec p bs) k = bs[k] := by
  have h16 : bs.length = 16 := hl
  cases p with
  | littleEndian => exact packBytes_byte bs k h (by omega)
  | bigEndian =>
    simp only [vecByte, packVec, Config.width]
    rw [packBytes_byte bs.reverse (16 - 1 - k) (by simp; omega) (by simp; omega), List.getElem_reverse]
    congr 1
    omega

/-! ### An operand depends on the parameters and the registers it is made of -/

theorem addrSpace_congr {s t : State} (h : t.cfg = s.cfg) : addrSpace t = addrSpace s := by
  simp [addrSpace, h]

theorem lenSpace_congr {s t : State} (h : t.cfg = s.cfg) : lenSpace t = lenSpace s := by
  simp [lenSpace, h]

theorem bufAddr_congr {s t : State} (h : t.cfg = s.cfg) (hl : t.bufAddrLo = s.bufAddrLo) (hh : t.bufAddrHi = s.bufAddrHi) :
    bufAddr t = bufAddr s := by
  simp [bufAddr, h, hl, hh]

theorem bufLen_congr {s t : State} (h : t.cfg = s.cfg) (hl : t.bufLenLo = s.bufLenLo) (hh : t.bufLenHi = s.bufLenHi) :
    bufLen t = bufLen s := by
  simp [bufLen, h, hl, hh]

theorem bufAddr_lt (s : State) : bufAddr s < addrSpace s := by
  unfold bufAddr addrSpace
  cases s.cfg.addrW
  · exact s.bufAddrLo.isLt
  · exact (s.bufAddrHi ++ s.bufAddrLo).isLt

theorem bufLen_lt (s : State) : bufLen s < lenSpace s := by
  unfold bufLen lenSpace
  cases s.cfg.lenW
  · exact s.bufLenLo.isLt
  · exact (s.bufLenHi ++ s.bufLenLo).isLt

/-- 2^ADDR_W and 2^LEN_W are 2^32 or 2^64. -/
theorem BitWidth.pow_cases (w : BitWidth) : 2 ^ w.bits = 2 ^ 32 ∨ 2 ^ w.bits = 2 ^ 64 := by
  cases w
  · exact Or.inl rfl
  · exact Or.inr rfl

/-- A value kept to ADDR_W bits is what the 64-bit holder holds. -/
theorem toNat_ofNat_mod_pow (w : BitWidth) (v : Nat) :
    (BitVec.ofNat 64 (v % 2 ^ w.bits)).toNat = v % 2 ^ w.bits := by
  rw [BitVec.toNat_ofNat, Nat.mod_eq_of_lt]
  rcases BitWidth.pow_cases w with h | h <;> rw [h] <;> omega

theorem setPtr_ptr_toNat (s : State) (v : Nat) : (setPtr s v).ptr.toNat = v % addrSpace s :=
  toNat_ofNat_mod_pow s.cfg.addrW v

theorem setRem_rem_toNat (s : State) (v : Nat) : (setRem s v).rem.toNat = v % lenSpace s :=
  toNat_ofNat_mod_pow s.cfg.lenW v

theorem consume_ptr_toNat (s : State) (n : Nat) : (consume s n).ptr.toNat = (s.ptr.toNat + n) % addrSpace s :=
  toNat_ofNat_mod_pow s.cfg.addrW _

theorem consume_rem_toNat (s : State) (n : Nat) :
    (consume s n).rem.toNat = (s.rem.toNat + (lenSpace s - n)) % lenSpace s :=
  toNat_ofNat_mod_pow s.cfg.lenW _

end Sys2Proof.Machine
end

