-- ==== Sys2Proof/Laws/Meanings.lean ====
section
/-! SUPPORT. For each meaning, once: everything that can have happened when it answers a next state, and when it does answer one. -/

namespace Sys2Proof.Machine

/-- A micro-operation that answers was free to run. -/
theorem microOp_next {i : Instr} {s t : State} {body : Out} (h : microOp i s body = .next t) :
    s.faults = [] ∧ s.cfg.wf = true ∧ seqInstr s.seq = some i ∧ body = .next t := by
  unfold microOp at h
  split at h
  · cases h
  · split at h
    · cases h
    · split at h
      · exact ⟨by simp_all, by simp_all, by assumption, h⟩
      · cases h

/-- A micro-operation that is free to run does what its body says. -/
theorem microOp_run {i : Instr} {s : State} (body : Out) (hf : s.faults = []) (hc : s.cfg.wf = true)
    (hs : seqInstr s.seq = some i) : microOp i s body = body := by
  simp [microOp, hf, hc, hs]

/-- The engine is not stuck exactly when every byte it would read next is admitted (20_memory.md R70). -/
theorem stuckAt_eq_none (s : State) :
    stuckAt s = none ↔ ∀ k < readWidth s.seq, admitted s (s.ptr.toNat + k) = true := by
  unfold stuckAt
  split
  · rename_i bs h
    simpa using ((memRead_eq_some s s.ptr.toNat (readWidth s.seq) bs).1 h).1
  · rename_i h
    obtain ⟨k, hk, hf⟩ := (memRead_eq_none s s.ptr.toNat (readWidth s.seq)).1 h
    simp only [reduceCtorEq, false_iff]
    exact fun hall => by simp [hall k hk] at hf

/-- A stuck engine is stuck at ptr (60_exceptions.md R212 S1). -/
theorem stuckAt_eq_some {s : State} {p : Long} (h : stuckAt s = some p) : p = s.ptr := by
  unfold stuckAt at h
  split at h
  · cases h
  · exact (Option.some.inj h).symm

/-- Only seq, ptr, memory, admission and ADDR_W decide whether the engine is stuck. -/
theorem stuckAt_congr {s t : State} (hs : t.seq = s.seq) (hp : t.ptr = s.ptr) (hm : t.mem = s.mem)
    (hu : t.unreadable = s.unreadable) (hw : t.cfg.addrW = s.cfg.addrW) : stuckAt t = stuckAt s := by
  simp only [stuckAt, hs, hp, memRead_congr hm hu hw]

theorem execUpdate_next {s t : State} (h : execUpdate s = .next t) :
    (s.cfg.wf = false ∧ t = refuse s (.badConfig .vnmax))
    ∨ (s.cfg.wf = true ∧ s.busy = true ∧ t = recordFault s .cmdWhileBusy)
    ∨ (s.cfg.wf = true ∧ s.busy = false ∧ ∃ o, firstUnwritten s = some o ∧ t = recordFault s (.unwrittenInput o))
    ∨ (s.cfg.wf = true ∧ s.busy = false ∧ firstUnwritten s = none ∧ t = { setBusy s with seq := .unpack }) := by
  unfold execUpdate at h
  split at h
  · cases h; exact Or.inl ⟨by assumption, rfl⟩
  · rename_i hc
    split at h
    · cases h; exact Or.inr (Or.inl ⟨by simpa using hc, by assumption, rfl⟩)
    · rename_i hb
      split at h
      · rename_i o ho
        cases h
        exact Or.inr (Or.inr (Or.inl ⟨by simpa using hc, by simpa using hb, o, ho, rfl⟩))
      · rename_i ho
        cases h
        exact Or.inr (Or.inr (Or.inr ⟨by simpa using hc, by simpa using hb, ho, rfl⟩))

theorem execUnpack_next {s t : State} (h : execUnpack s = .next t) :
    s.faults = [] ∧ s.cfg.wf = true ∧ s.seq = .unpack
      ∧ ((addrSpace s < bufAddr s + bufLen s ∧ t = recordFault s (.bufWrap (bufAddr s) (bufLen s)))
        ∨ (bufAddr s + bufLen s ≤ addrSpace s ∧ t = advance (unpackWrites s))) := by
  obtain ⟨hf, hc, hs, hb⟩ := microOp_next h
  refine ⟨hf, hc, ?_, ?_⟩
  · revert hs; cases s.seq <;> simp [seqInstr]
  · split at hb
    · cases hb; exact Or.inl ⟨by assumption, rfl⟩
    · cases hb; exact Or.inr ⟨by omega, rfl⟩

theorem execSbyte_next {s t : State} (h : execSbyte s = .next t) :
    s.faults = [] ∧ s.cfg.wf = true ∧ (s.seq = .head ∨ s.seq = .tail)
      ∧ ((stuckAt s ≠ none ∧ t = s)
        ∨ (admitted s s.ptr.toNat = true ∧ t = advance (sbyteWrites s (memByte s.mem s.ptr.toNat)))) := by
  obtain ⟨hf, hc, hs, hb⟩ := microOp_next h
  rw [memRead_head] at hb
  have hq : s.seq = .head ∨ s.seq = .tail := by
    revert hs; cases s.seq <;> simp [seqInstr]
  refine ⟨hf, hc, hq, ?_⟩
  by_cases ha : admitted s s.ptr.toNat = true
  · rw [if_pos ha] at hb; cases hb; exact Or.inr ⟨ha, rfl⟩
  · rw [if_neg ha] at hb
    cases hb
    refine Or.inl ⟨fun h => ha ?_, rfl⟩
    simpa using (stuckAt_eq_none s).1 h 0 (by rcases hq with h | h <;> simp [h, readWidth])

theorem execFinalmod_next {s t : State} (h : execFinalmod s = .next t) :
    s.faults = [] ∧ s.cfg.wf = true ∧ s.seq = .finalmod
      ∧ t = advance { s with s1 := modM s.s1, s2 := modM s.s2 } := by
  obtain ⟨hf, hc, hs, hb⟩ := microOp_next h
  refine ⟨hf, hc, ?_, ?_⟩
  · revert hs; cases s.seq <;> simp [seqInstr]
  · cases hb; rfl

theorem execPack_next {s t : State} (h : execPack s = .next t) :
    s.faults = [] ∧ s.cfg.wf = true ∧ s.seq = .pack ∧ t = advance (setDone (packResult s)) := by
  obtain ⟨hf, hc, hs, hb⟩ := microOp_next h
  refine ⟨hf, hc, ?_, ?_⟩
  · revert hs; cases s.seq <;> simp [seqInstr]
  · cases hb; rfl

theorem execVenter_next {s t : State} (h : execVenter s = .next t) :
    s.faults = [] ∧ s.cfg.wf = true ∧ s.seq = .venter
      ∧ t = advance (startChunk { s with vs1 := ⟨fold2 s.s1, 0, 0, 0⟩, vs2 := ⟨fold2 s.s2, 0, 0, 0⟩ }) := by
  obtain ⟨hf, hc, hs, hb⟩ := microOp_next h
  refine ⟨hf, hc, ?_, ?_⟩
  · revert hs; cases s.seq <;> simp [seqInstr]
  · cases hb; rfl

theorem execVword_next {s t : State} (h : execVword s = .next t) :
    s.faults = [] ∧ s.cfg.wf = true ∧ s.seq = .vword
      ∧ ((stuckAt s ≠ none ∧ t = s)
        ∨ ((∀ k < Config.width, admitted s (s.ptr.toNat + k) = true)
          ∧ t = advance (vwordWrites s (packVec s.cfg.vecPack
            ((List.range Config.width).map (fun k => memByte s.mem (s.ptr.toNat + k))))))) := by
  obtain ⟨hf, hc, hs, hb⟩ := microOp_next h
  have hq : s.seq = .vword := by
    revert hs; cases s.seq <;> simp [seqInstr]
  refine ⟨hf, hc, hq, ?_⟩
  split at hb
  · rename_i bytes hm
    cases hb
    obtain ⟨ha, rfl⟩ := (memRead_eq_some s s.ptr.toNat Config.width bytes).1 hm
    exact Or.inr ⟨ha, rfl⟩
  · rename_i hm
    cases hb
    exact Or.inl ⟨by simp [stuckAt, hq, readWidth, hm], rfl⟩

theorem execVfold_next {s t : State} (h : execVfold s = .next t) :
    s.faults = [] ∧ s.cfg.wf = true ∧ s.seq = .vfold
      ∧ ((Config.width ≤ s.rem.toNat ∧ t = advance (startChunk (foldBoth s)))
        ∨ (s.rem.toNat < Config.width ∧ t = advance (foldBoth s))) := by
  obtain ⟨hf, hc, hs, hb⟩ := microOp_next h
  refine ⟨hf, hc, ?_, ?_⟩
  · revert hs; cases s.seq <;> simp [seqInstr]
  · by_cases hr : Config.width ≤ s.rem.toNat
    · rw [if_pos hr] at hb; cases hb; exact Or.inl ⟨hr, rfl⟩
    · rw [if_neg hr] at hb; cases hb; exact Or.inr ⟨by omega, rfl⟩

theorem execVexit_next {s t : State} (h : execVexit s = .next t) :
    s.faults = [] ∧ s.cfg.wf = true ∧ s.seq = .vexit
      ∧ t = advance { s with s1 := s.vs1.sum, s2 := s.vs2.sum } := by
  obtain ⟨hf, hc, hs, hb⟩ := microOp_next h
  refine ⟨hf, hc, ?_, ?_⟩
  · revert hs; cases s.seq <;> simp [seqInstr]
  · cases hb; rfl

end Sys2Proof.Machine
end

