-- ==== Sys2Proof/Laws/PerInstr.lean ====
section
/-! SUPPORT. One lemma per instruction about its encoding as syntax: every field holds a value its format admits. -/

namespace Sys2Proof.Laws

/-- The instruction's code is well formed (30_encoding.md R91 to R95). -/
def CodeFields.Statement (i : Instr) : Prop :=
  (encode i).wf = true

theorem CodeFields.update : CodeFields.Statement .update := rfl
theorem CodeFields.unpack : CodeFields.Statement .unpack := rfl
theorem CodeFields.sbyte : CodeFields.Statement .sbyte := rfl
theorem CodeFields.finalmod : CodeFields.Statement .finalmod := rfl
theorem CodeFields.pack : CodeFields.Statement .pack := rfl
theorem CodeFields.venter : CodeFields.Statement .venter := rfl
theorem CodeFields.vword : CodeFields.Statement .vword := rfl
theorem CodeFields.vfold : CodeFields.Statement .vfold := rfl
theorem CodeFields.vexit : CodeFields.Statement .vexit := rfl

end Sys2Proof.Laws
end

