-- ==== Sys2Proof/Laws/Step.lean ====
section
/-! SUPPORT. For a host access and for a step of the machine, once: everything that can have happened when it answers a next state. -/

namespace Sys2Proof.Machine

/-- With nothing pending the engine takes its step, and the host where the engine has none. -/
theorem step_nil {s : State} (h : s.inputs = []) :
    step s = if issued s = none then hostTurn s else engineTurn s := by
  simp [step, turn, h]

/-- A pending step leaves the list and is performed. -/
theorem step_cons {s : State} {x : Input} {rest : List Input} (h : s.inputs = x :: rest) :
    step s = perform x { s with inputs := rest } := by
  simp [step, turn, h]

/-- Every code the sequencer issues decodes to the micro-operation that seq names. -/
theorem decode_seqCode {q : Seq} {c : Byte} (h : seqCode q = some c) :
    ∃ i, decode (.uop c) = .instr i ∧ seqInstr q = some i := by
  cases q <;> simp only [seqCode, Option.some.injEq, reduceCtorEq] at h <;> subst h <;>
    exact ⟨_, rfl, rfl⟩

/-- The engine's turn either runs the micro-operation that seq names or waits. -/
theorem engineTurn_cases (s : State) :
    (∃ i, s.faults = [] ∧ stuckAt s = none ∧ seqInstr s.seq = some i ∧ engineTurn s = exec i s)
    ∨ ((s.faults ≠ [] ∨ stuckAt s ≠ none ∨ s.seq = .idle) ∧ engineTurn s = .next s) := by
  unfold engineTurn issued
  by_cases hf : s.faults = [] ∧ stuckAt s = none
  · rw [if_pos hf]
    cases hq : seqCode s.seq with
    | none =>
      refine Or.inr ⟨Or.inr (Or.inr ?_), rfl⟩
      revert hq; cases s.seq <;> simp [seqCode]
    | some c =>
      obtain ⟨i, hd, hi⟩ := decode_seqCode hq
      exact Or.inl ⟨i, hf.1, hf.2, hi, by simp [hd, runDecoded]⟩
  · rw [if_neg hf]
    refine Or.inr ⟨?_, rfl⟩
    by_cases h : s.faults = []
    · exact Or.inr (Or.inl fun hs => hf ⟨h, hs⟩)
    · exact Or.inl h

/-- The engine has no step exactly at IDLE, after a fault, or while it is stuck (10_state.md R44, 60_exceptions.md R212). -/
theorem issued_eq_none (s : State) : issued s = none ↔ s.seq = .idle ∨ s.faults ≠ [] ∨ stuckAt s ≠ none := by
  have hq : seqCode s.seq = none ↔ s.seq = .idle := by cases s.seq <;> simp [seqCode]
  unfold issued
  split
  · rename_i h; simp [h, hq]
  · rename_i h
    simp only [true_iff]
    by_cases hf : s.faults = []
    · exact Or.inr (Or.inr fun hs => h ⟨hf, hs⟩)
    · exact Or.inr (Or.inl hf)

/-- A decoded command word is UPDATE or is refused. -/
theorem decode_cmd (v : Word) : decode (.cmd v) = if v = 1 then .instr .update else .reservedCmd v := by
  have hm : v &&& 4294967295#32 = v := by
    have : (4294967295#32 : Word) = BitVec.allOnes 32 := rfl
    rw [this, BitVec.and_allOnes]
  by_cases h : v = 1
  · subst h; rfl
  · have h' : ¬ v = 1#32 := h
    simp [decode, lookupRow, cmdTable, OpcodeRow.covers, hm, h']

/-- The effects a host register access can have. -/
inductive AccessEffect (s : State) : State → Prop
  | refused (r : RefusalReason) : AccessEffect s (refuse s r)
  | faulted (r : FaultReason) : AccessEffect s (recordFault s r)
  | stored (r : Slot) (v : Word) (idle : s.busy = false) : AccessEffect s (writeInput s r v)
  | replied (o : Nat) (v : Word) : AccessEffect s (reply s o v)
  | drawn (o : Nat) (busy : s.busy = true) : AccessEffect s (reply (countDraw s) o (nextDraw s))
  | command (t : State) (run : exec .update s = .next t) : AccessEffect s t

theorem readMarked_next {s t : State} {o : Nat} {m : Bool} {v : Word} (h : readMarked s o m v = .next t) :
    AccessEffect s t := by
  unfold readMarked at h
  split at h
  · cases h; exact .replied _ _
  · cases h; exact .faulted _

theorem writeInputReg_next {s t : State} {r : Slot} {o : Nat} {v : Word} (h : writeInputReg s r o v = .next t) :
    AccessEffect s t := by
  unfold writeInputReg at h
  split at h
  · cases h; exact .faulted _
  · rename_i hb
    cases h; exact .stored _ _ (by simpa using hb)

theorem writeSlot_next {s t : State} {r : Slot} {o : Nat} {v : Word} (h : writeSlot s r o v = .next t) :
    AccessEffect s t := by
  cases r with
  | adlerIn | bufAddrLo | bufAddrHi | bufLenLo | bufLenHi => exact writeInputReg_next h
  | adlerOut | status => cases h; exact .refused _
  | cmd =>
    rw [writeSlot, decode_cmd] at h
    split at h
    · exact .command _ h
    · cases h; exact .refused _

theorem readSlot_next {s t : State} {r : Slot} {o : Nat} (h : readSlot s r o = .next t) : AccessEffect s t := by
  cases r with
  | adlerIn | bufAddrLo | bufAddrHi | bufLenLo | bufLenHi => exact readMarked_next h
  | adlerOut =>
    rw [readSlot] at h
    split at h
    · cases h; exact .drawn _ (by assumption)
    · exact readMarked_next h
  | status => cases h; exact .replied _ _
  | cmd => cases h; exact .refused _

/-- What a host access that answers has done. -/
theorem hostAccess_next {a : Access} {s t : State} (h : hostAccess a s = .next t) : AccessEffect s t := by
  unfold hostAccess at h
  split at h
  · cases h; exact .refused _
  · split at h
    · cases h; exact .refused _
    · cases a with
      | write w o v => exact writeSlot_next h
      | read w o => exact readSlot_next h

/-- What a memory write that answers can have done. -/
theorem memoryWrite_next {addr : Nat} {b : Byte} {s t : State} (h : memoryWrite addr b s = .next t) :
    addr < addrSpace s
      ∧ ((s.busy = true ∧ inBuffer s addr = true ∧ t = refuse s (.bufWriteWhileBusy addr))
        ∨ ((s.busy = false ∨ inBuffer s addr = false) ∧ t = { s with mem := memPut s.mem addr b })) := by
  unfold memoryWrite at h
  split at h
  · cases h
  · refine ⟨by omega, ?_⟩
    split at h
    · rename_i hb
      cases h
      simp only [Bool.and_eq_true] at hb
      exact Or.inl ⟨hb.1, hb.2, rfl⟩
    · rename_i hb
      cases h
      simp only [Bool.and_eq_true, not_and_or, Bool.not_eq_true] at hb
      exact Or.inr ⟨hb, rfl⟩

/-! ### The host's program -/

/-- A read that replied returned the value replied. -/
@[simp] theorem readValue_reply (s : State) (o : Nat) (v : Word) : readValue s (reply s o v) = some v := by
  simp [readValue]

/-- A draw replied is the value returned. -/
@[simp] theorem readValue_reply_countDraw (s : State) (o : Nat) (v : Word) :
    readValue s (reply (countDraw s) o v) = some v := by
  simp [readValue]

/-- A read that faulted returned no value. -/
@[simp] theorem readValue_recordFault (s : State) (r : FaultReason) : readValue s (recordFault s r) = none := by
  simp [readValue]

/-- A refused read returned no value. -/
@[simp] theorem readValue_refuse (s : State) (r : RefusalReason) : readValue s (refuse s r) = none := by
  simp [readValue]

/-- What the host does after an access that answered. -/
theorem andThen_next {o : Out} {f : State → State} {t : State} (h : andThen o f = .next t) :
    ∃ u, o = .next u ∧ t = f u := by
  cases o with
  | next u => cases h; exact ⟨u, rfl, rfl⟩
  | fault r => cases h
  | refused r => cases h

/-- After a poll only the host's program differs. -/
theorem afterPoll_eq (s t : State) : ∃ p, afterPoll s t = { t with program := p } := by
  unfold afterPoll
  split
  · exact ⟨t.program, rfl⟩
  · exact ⟨_, rfl⟩

/-- After CHAIN's read only the host's program and the draw counter differ. -/
theorem afterResult_eq (s t : State) : ∃ p d, afterResult s t = { t with program := p, draws := d } := by
  unfold afterResult
  split
  · exact ⟨_, t.draws, rfl⟩
  · exact ⟨_, _, rfl⟩

/-- The effects a line of the host's program, already taken off it, can have. -/
inductive LineEffect (s : State) : State → Prop
  | access (t : State) (p : List HostOp) (d : Nat) (effect : AccessEffect s t) :
      LineEffect s { t with program := p, draws := d }
  | writeRefused (addr : Nat) (busy : s.busy = true) (inside : inBuffer s addr = true) :
      LineEffect s (refuse s (.bufWriteWhileBusy addr))
  | memory (addr : Nat) (b : Byte) (apart : s.busy = false ∨ inBuffer s addr = false) :
      LineEffect s { s with mem := memPut s.mem addr b }

/-- What a line of the host's program that answers has done. -/
theorem hostLine_next {op : HostOp} {s t : State} (h : hostLine op s = .next t) : LineEffect s t := by
  cases op with
  | wr r v => exact .access t t.program t.draws (hostAccess_next h)
  | rd r => exact .access t t.program t.draws (hostAccess_next h)
  | waitDone =>
    rw [hostLine] at h
    obtain ⟨u, hu, rfl⟩ := andThen_next h
    obtain ⟨p, hp⟩ := afterPoll_eq s u
    exact hp ▸ .access u p u.draws (hostAccess_next hu)
  | chain =>
    rw [hostLine] at h
    obtain ⟨u, hu, rfl⟩ := andThen_next h
    obtain ⟨p, d, hp⟩ := afterResult_eq s u
    exact hp ▸ .access u p d (hostAccess_next hu)
  | store addr b =>
    rcases (memoryWrite_next h).2 with ⟨hb, hi, rfl⟩ | ⟨ha, rfl⟩
    · exact .writeRefused addr hb hi
    · exact .memory addr b ha

/-- The host's turn either performs the next line or, with none left, waits. -/
theorem hostTurn_next {s t : State} (h : hostTurn s = .next t) :
    (s.program = [] ∧ t = s) ∨ LineEffect { s with program := s.program.tail } t := by
  unfold hostTurn at h
  split at h
  · cases h; exact Or.inl ⟨by assumption, rfl⟩
  · rename_i hp
    rw [hp]
    exact Or.inr (hostLine_next h)

/-! ### A step -/

/-- The effects a step can have on the state from which the performed step has left the list. -/
inductive StepEffect (s : State) : State → Prop
  | waits (noStep : s.program = [] ∨ s.faults ≠ [] ∨ stuckAt s ≠ none ∨ s.seq = .idle) : StepEffect s s
  | engine (i : Instr) (t : State) (noFault : s.faults = []) (free : stuckAt s = none) (named : seqInstr s.seq = some i)
      (run : exec i s = .next t) : StepEffect s t
  | access (t : State) (effect : AccessEffect s t) : StepEffect s t
  | line (t : State) (effect : LineEffect { s with program := s.program.tail } t) : StepEffect s t
  | writeRefused (addr : Nat) (busy : s.busy = true) (inside : inBuffer s addr = true) :
      StepEffect s (refuse s (.bufWriteWhileBusy addr))
  | memory (addr : Nat) (b : Byte) (apart : s.busy = false ∨ inBuffer s addr = false) :
      StepEffect s { s with mem := memPut s.mem addr b }
  | admission (rs : List Region) : StepEffect s { s with unreadable := rs }
  | reset : StepEffect s (resetBlock s)

theorem engineTurn_next {s t : State} (h : engineTurn s = .next t) : StepEffect s t := by
  rcases engineTurn_cases s with ⟨i, hf, hs, hi, he⟩ | ⟨hw, he⟩
  · exact .engine i t hf hs hi (he ▸ h)
  · rw [he] at h; cases h; exact .waits (Or.inr hw)

theorem hostTurn_effect {s t : State} (h : hostTurn s = .next t) : StepEffect s t := by
  rcases hostTurn_next h with ⟨hp, rfl⟩ | he
  · exact .waits (Or.inl hp)
  · exact .line t he

theorem perform_next {x : Input} {s t : State} (h : perform x s = .next t) : StepEffect s t := by
  cases x with
  | engine => exact engineTurn_next h
  | host => exact hostTurn_effect h
  | access a => exact .access t (hostAccess_next h)
  | memWrite addr b =>
    rcases (memoryWrite_next h).2 with ⟨hb, hi, rfl⟩ | ⟨ha, rfl⟩
    · exact .writeRefused addr hb hi
    · exact .memory addr b ha
  | admission rs => cases h; exact .admission rs
  | reset => cases h; exact .reset

/-- What a step that answers has done: every invariant follows from these cases. -/
theorem step_next {s t : State} (h : step s = .next t) : StepEffect { s with inputs := s.inputs.tail } t := by
  cases hi : s.inputs with
  | nil =>
    rw [step_nil hi] at h
    have : ({ s with inputs := ([] : List Input).tail } : State) = s := by
      cases s; cases hi; rfl
    rw [this]
    split at h
    · exact hostTurn_effect h
    · exact engineTurn_next h
  | cons x rest =>
    rw [step_cons hi] at h
    exact perform_next h

end Sys2Proof.Machine
end

