-- ==== Sys2Proof/Laws/Stream.lean ====
section
/-! SUPPORT. The byte stream and its unreduced sums: how they grow by a byte, and what they depend on. -/

namespace Sys2Proof

open Machine

theorem streamTake_succ (s : State) (m : Nat) : streamTake s (m + 1) = streamTake s m ++ [streamByte s m] := by
  simp [streamTake, List.range_succ]

theorem streamTake_length (s : State) (m : Nat) : (streamTake s m).length = m := by
  simp [streamTake]

theorem rawSums_append (a : Word) (xs ys : List Byte) : rawSums a (xs ++ ys) = ys.foldl rawByte (rawSums a xs) := by
  simp [rawSums]

/-- The sums after one more byte of the stream (40_engine_update.md R126). -/
theorem rawSums_streamTake_succ (a : Word) (s : State) (m : Nat) :
    rawSums a (streamTake s (m + 1)) = rawByte (rawSums a (streamTake s m)) (streamByte s m) := by
  simp [streamTake_succ, rawSums_append]

/-- The stream depends on the buffer's registers, the parameters and the buffer's bytes alone. -/
theorem streamTake_congr {s t : State} {m : Nat} (ha : bufAddr t = bufAddr s)
    (hm : ∀ i < m, memByte t.mem (bufAddr s + i) = memByte s.mem (bufAddr s + i)) : streamTake t m = streamTake s m := by
  unfold streamTake
  apply List.map_congr_left
  intro i hi
  simp [streamByte, ha, hm i (by simpa using hi)]

/-- A write leaves every other byte alone, in any memory. -/
theorem memByte_memPut_other (m : Memory) (addr : Nat) (b : Byte) {x : Nat} (h : x ≠ addr) :
    memByte (memPut m addr b) x = memByte m x := by
  have cons_other : ∀ m' : Memory, memByte (consCell addr b m') x = memByte m' x := by
    intro m'
    unfold consCell
    split
    · rfl
    · rw [memByte, if_neg (fun e => h e.symm)]
  induction m with
  | nil => exact cons_other []
  | cons c rest ih =>
    obtain ⟨a, d⟩ := c
    rw [memPut]
    split
    · exact cons_other _
    · split
      · rename_i he
        rw [cons_other, memByte, if_neg (by omega)]
      · rw [memByte, memByte, ih]

end Sys2Proof
end

