-- ==== Sys2Proof/Tests/Slice0.lean ====
section
/-! SUPPORT. Small tests, their expected values from spec/95_test_vectors.md and the rules' own examples, and a witness for
the hypotheses of each obligation. -/

namespace Sys2Proof.Tests

open Machine

/-- A field of the next state. -/
def after {α : Type} (o : Out) (f : State → α) : Option α :=
  match o with
  | .next t => some (f t)
  | .fault _ => none
  | .refused _ => none

/-- The fault a step stops with. -/
def faultOf (o : Out) : Option Fault :=
  match o with
  | .next _ => none
  | .fault f => some f
  | .refused _ => none

/-- Every input register written since reset, BUF_ADDR_HI and BUF_LEN_HI too. -/
def marks : Marks := ⟨true, true, true, true, true, false⟩

/-- Inputs written, nothing running. -/
def ready (a addr len : Word) : State :=
  { State.reset with adlerIn := a, bufAddrLo := addr, bufLenLo := len, written := marks }

/-- An UPDATE running, with seq at a micro-operation. -/
def running (q : Seq) (a addr len : Word) : State :=
  { ready a addr len with busy := true, seq := q }

/-- Bytes b, b+1, ... from an address. -/
def countMem (addr : Nat) (b : Byte) : Nat → Memory
  | 0 => []
  | n + 1 => (addr, b) :: countMem (addr + 1) (b + 1) n

/-- 64-bit addresses and lengths. -/
def wide : Params := { Params.default with addrW := .w64, lenW := .w64 }

/-- A chunk bound outside R169. -/
def badCfg : Params := { Params.default with vnmax := 11248 }

/-! ### Well-formedness: each check refuses an ill-formed term -/

theorem test_wf_cmd_op : (Code.cmd 0x00000002).wf = false := by decide
theorem test_wf_cmd_rsvd : (Code.cmd 0x00000101).wf = false := by decide
theorem test_wf_uop_fam : (Code.uop 0x30).wf = false := by decide
theorem test_wf_uop_fn : (Code.uop 0x14).wf = false := by decide
/-- CMD-11: an 8-bit access at 0x19. -/
theorem test_wf_access_width : (Access.read 8 0x18).wf = false := by decide
theorem test_wf_access_align : (Access.read 32 0x19).wf = false := by decide
/-- V-B1 and UPD-27. -/
theorem test_wf_vnmax_bound : (vnmaxOk 10608, vnmaxOk 10624, badCfg.wf) = (true, false, false) := by decide
theorem test_wf_vnmax_multiple : (vnmaxOk 10600, vnmaxOk 0) = (false, false) := by decide

/-! ### Decoding: words written out bit by bit from 30_encoding.md R92 and R95 -/

theorem test_decode_update : decode (.cmd 0b00000000000000000000000000000001) = .instr .update := by decide
theorem test_decode_unpack : decode (.uop 0b00010000) = .instr .unpack := by decide
theorem test_decode_sbyte : decode (.uop 0b00010001) = .instr .sbyte := by decide
theorem test_decode_finalmod : decode (.uop 0b00010010) = .instr .finalmod := by decide
theorem test_decode_pack : decode (.uop 0b00010011) = .instr .pack := by decide
theorem test_decode_venter : decode (.uop 0b00100000) = .instr .venter := by decide
theorem test_decode_vword : decode (.uop 0b00100001) = .instr .vword := by decide
theorem test_decode_vfold : decode (.uop 0b00100010) = .instr .vfold := by decide
theorem test_decode_vexit : decode (.uop 0b00100011) = .instr .vexit := by decide
/-- CMD-3, CMD-4 and a code outside R95. -/
theorem test_decode_reserved :
    decode (.cmd 0) = .reservedCmd 0 ∧ decode (.cmd 0x101) = .reservedCmd 0x101
      ∧ decode (.uop 0x14) = .unknownUop 0x14 := by decide
theorem test_table_word :
    decodeTableWord 32 1 = some .update ∧ decodeTableWord 8 0x23 = some .vexit ∧ decodeTableWord 8 1 = none := by decide
theorem test_rows_do_not_overlap :
    uopTable.Pairwise (fun r q => r.pattern &&& q.mask ≠ q.pattern &&& r.mask) := by decide

/-! ### Instructions, two tests each -/

/-- CMD-1. -/
theorem test_update_unwritten : after (exec .update .reset) State.faults = some [.unwrittenInput 0x00] := by decide
/-- CMD-17. -/
theorem test_update_unwritten_hi :
    after (exec .update { ready 1 0 0 with cfg := wide, written := { marks with bufAddrHi := false } }) State.faults
      = some [.unwrittenInput 0x0C] := by decide
/-- UNP-1. -/
theorem test_unpack_head :
    after (exec .unpack (running .unpack 0x024D0127 0x3005 40)) (fun t => (t.s1, t.s2, t.head, t.rem, t.inv, t.seq))
      = some (0x0127, 0x024D, 11, 40, false, .head) := by decide
/-- UNP-10. -/
theorem test_unpack_wrap :
    after (exec .unpack (running .unpack 1 0xFFFFFFF0 0x11)) (fun t => (t.faults, t.seq))
      = some ([.bufWrap 0xFFFFFFF0 0x11], .unpack) := by decide
/-- SB-4, at TAIL with one byte left. -/
theorem test_sbyte_tail :
    after (exec .sbyte { running .tail 1 0x1000 1 with
        s1 := 65535, s2 := 65535, ptr := 0x1000, rem := 1, mem := [(0x1000, 0xFF)] })
      (fun t => (t.s1, t.s2, t.seq)) = some (65790, 131325, .finalmod) := by decide
/-- SB-2, at HEAD; the last head byte stands at the top of the address space, so ptr wraps to 0. -/
theorem test_sbyte_head :
    after (exec .sbyte { running .head 1 0xFFFFFFFF 1 with
        s1 := 0x62, s2 := 0x62, ptr := 0xFFFFFFFF, rem := 1, head := 1, mem := [(0xFFFFFFFF, 0x62)] })
      (fun t => (t.s1, t.s2, t.ptr, t.head, t.seq)) = some (196, 294, 0, 0, .finalmod) := by decide
/-- FM-2. -/
theorem test_finalmod_modulus :
    after (exec .finalmod { running .finalmod 1 0 1 with s1 := 65521, s2 := 65520 }) (fun t => (t.s1, t.s2))
      = some (0, 65520) := by decide
/-- FM-3. -/
theorem test_finalmod_largest :
    after (exec .finalmod { running .finalmod 1 0 1 with s1 := 266805, s2 := 4238280 }) (fun t => (t.s1, t.s2))
      = some (4721, 44936) := by decide
/-- The example of R128. -/
theorem test_pack_result :
    after (exec .pack { running .pack 1 0 1 with s1 := 0x0127, s2 := 0x024D })
      (fun t => (t.adlerOut, statusWord t, t.seq)) = some (0x024D0127, 2, .idle) := by decide
/-- FM-7: under ANY with inv = 1 the draw counter moves. -/
theorem test_pack_draw :
    after (exec .pack { running .pack 0xFFFFFFFF 0 1 with
        cfg := { Params.default with priorPolicy := .any }, inv := true }) (fun t => (t.draws, statusWord t))
      = some (1, 2) := by decide
/-- V-N1. -/
theorem test_venter :
    after (exec .venter { running .venter 1 0 40 with s1 := 56, s2 := 231, rem := 29 })
      (fun t => (t.vs1, t.vs2, t.chunk, t.seq)) = some (⟨56, 0, 0, 0⟩, ⟨231, 0, 0, 0⟩, 16, .vword) := by decide
/-- V-N2. -/
theorem test_venter_folds :
    after (exec .venter { running .venter 1 0 10623 with s1 := 69360, s2 := 1079160, rem := 10623 })
      (fun t => (t.vs1.l0, t.vs2.l0, t.chunk)) = some (3839, 30824, 10608) := by decide
/-- V-W2: the old vs1 is scaled. -/
theorem test_vword :
    after (exec .vword { running .vword 1 0x3005 40 with
        vs1 := ⟨56, 0, 0, 0⟩, vs2 := ⟨231, 0, 0, 0⟩, ptr := 0x3010, rem := 29, chunk := 16, mem := countMem 0x3010 11 16 })
      (fun t => (t.vs1, t.vs2, t.ptr, t.rem, t.seq))
      = some (⟨106, 66, 82, 98⟩, ⟨1847, 688, 528, 240⟩, 0x3020, 13, .vfold) := by decide
/-- V-W1 and V-L5: the same lanes under big-endian packing. -/
theorem test_vword_big_endian :
    after (exec .vword { running .vword 1 0x1000 16 with
        cfg := { Params.default with vecPack := .bigEndian }
        vs1 := ⟨1, 0, 0, 0⟩, ptr := 0x1000, rem := 16, chunk := 16, mem := countMem 0x1000 1 16 })
      (fun t => (t.vs1, t.vs2)) = some (⟨11, 26, 42, 58⟩, ⟨156, 268, 268, 140⟩) := by decide
/-- V-F1. -/
theorem test_vfold :
    after (exec .vfold { running .vfold 1 0 64 with
        vs1 := ⟨69600, 4080, 4080, 4080⟩, vs2 := ⟨4415880, 140760, 124440, 108120⟩, rem := 15 })
      (fun t => (t.vs1, t.vs2, t.seq)) = some (⟨4079, 4080, 4080, 4080⟩, ⟨25973, 9718, 58919, 42599⟩, .vexit) := by decide
/-- V-C1: 10624 bytes leave a second chunk of 16. -/
theorem test_vfold_next_chunk :
    after (exec .vfold { running .vfold 1 0 10624 with rem := 16 }) (fun t => (t.chunk, t.seq)) = some (16, .vword) := by
  decide
/-- V-X2. -/
theorem test_vexit :
    after (exec .vexit { running .vexit 1 0 64 with vs1 := ⟨4079, 4080, 4080, 4080⟩, vs2 := ⟨25973, 9718, 58919, 42599⟩ })
      (fun t => (t.s1, t.s2, t.seq)) = some (16319, 137209, .finalmod) := by decide
/-- V-X3. -/
theorem test_vexit_largest :
    after (exec .vexit { running .vexit 1 0 64 with
        vs1 := ⟨65745, 65745, 65745, 65745⟩, vs2 := ⟨65745, 65745, 65745, 65745⟩, rem := 1 })
      (fun t => (t.s1, t.s2, t.seq)) = some (262980, 262980, .tail) := by decide

/-! ### Datapath functions and the reference -/

/-- FD-1 to FD-8, columns FOLD and FOLD2. -/
theorem test_fold_table :
    [0x12345678, 0xFFFFFFFF, 65521, 65536, 0x1FFFF, 65745, 0, 65535].map (fun x => (fold x, fold2 x))
      = [(92036, 26515), (1048560, 65745), (65521, 65521), (15, 15), (65550, 29), (224, 224), (0, 0),
         (65535, 65535)] := by decide
/-- FD-1 to FD-8, column MOD. -/
theorem test_mod_table :
    [0x12345678, 0xFFFFFFFF, 65521, 65536, 0x1FFFF, 65745, 0, 65535].map modM
      = [26515, 224, 0, 15, 29, 224, 0, 14] := by decide
/-- The examples of R130. -/
theorem test_head_length :
    (headLength 0x1000 100, headLength 0x1001 100, headLength 0x1001 5, headLength 0x100F 3) = (0, 15, 5, 1) := by decide
/-- E3: "abc". -/
theorem test_adler_abc : adler 1 [0x61, 0x62, 0x63] = 0x024D0127 := by decide
/-- UPD-20. -/
theorem test_adler_invalid_prior : adler 0xFFFFFFFF [0x01] = 0x001D000F := by decide

/-! ### Host accesses and steps -/

/-- CMD-5, CMD-6, CMD-7, CMD-8. -/
theorem test_busy_accesses :
    after (hostAccess (.write 32 0x18 1) (running .unpack 1 0 0)) State.faults = some [.cmdWhileBusy]
      ∧ after (hostAccess (.write 32 0x18 2) (running .unpack 1 0 0)) State.refusals = some [.reservedCmd 2]
      ∧ after (hostAccess (.write 32 0x00 7) (running .unpack 1 0 0)) (fun t => (t.faults, t.adlerIn))
        = some ([.writeWhileBusy 0x00], 1)
      ∧ after (hostAccess (.write 32 0x0C 0) (running .unpack 1 0 0)) State.refusals = some [.reservedOffset 0x0C] := by
  decide
/-- CMD-9, CMD-10, CMD-11, CMD-12. -/
theorem test_reset_accesses :
    after (hostAccess (.read 32 0x18) .reset) State.refusals = some [.readOfWo 0x18]
      ∧ after (hostAccess (.write 32 0x1C 0) .reset) State.refusals = some [.writeToRo 0x1C]
      ∧ after (hostAccess (.read 8 0x19) .reset) State.refusals = some [.badAccess 0x19 8]
      ∧ after (hostAccess (.read 32 0x04) .reset) State.faults = some [.unwrittenRead 0x04] := by decide
/-- CMD-13, CMD-14, CMD-15, CMD-16. -/
theorem test_status_and_reads :
    after (hostAccess (.read 32 0x1C) .reset) State.replies = some [⟨0x1C, 0⟩]
      ∧ after (hostAccess (.read 32 0x04) (running .unpack 1 0 0)) (fun t => (t.draws, t.faults)) = some (1, [])
      ∧ after (hostAccess (.read 32 0x10) (running .unpack 1 0 9)) State.replies = some [⟨0x10, 9⟩]
      ∧ after (hostAccess (.write 32 0x18 1) { ready 1 0 0 with done := true }) statusWord = some 1 := by decide
/-- X8, and the byte just past the buffer. -/
theorem test_buffer_write :
    after (memoryWrite 0x1002 5 (running .tail 1 0x1000 3)) (fun t => (t.mem, t.refusals))
        = some ([], [.bufWriteWhileBusy 0x1002])
      ∧ after (memoryWrite 0x1003 5 (running .tail 1 0x1000 3)) State.mem = some [(0x1003, 5)] := by decide
/-- The pseudo-instruction UPDATE of R100 for both widths (P3 line 1). -/
theorem test_update_expansion :
    updateAccesses .default 1 0x3005 40 = [.wr .adlerIn 1, .wr .bufAddrLo 0x3005, .wr .bufLenLo 40, .wr .cmd 1]
      ∧ (updateAccesses wide 1 0x100000002 0).length = 6 := by decide
/-- WAITDONE polls again after P1's 0x00000001 and ends at 0x00000002. -/
theorem test_wait_done :
    after (hostTurn { running .pack 1 0 0 with program := waitDone ++ getSum }) (fun t => (t.replies, t.program))
        = some ([⟨0x1C, 1⟩], [.waitDone, .rd .adlerOut])
      ∧ after (hostTurn { ready 1 0 0 with done := true, program := waitDone ++ getSum }) (fun t => (t.replies, t.program))
        = some ([⟨0x1C, 2⟩], [.rd .adlerOut]) := by decide
/-- P2 line 6: CHAIN reads 0x03DA0195 and its second access writes it. -/
theorem test_chain :
    let s := { ready 1 0x2003 4 with
      done := true, adlerOut := 0x03DA0195, written := { marks with adlerOut := true }, program := chain }
    after (hostTurn s) (fun t => (t.replies, t.program)) = some ([⟨0x04, 0x03DA0195⟩], [.wr .adlerIn 0x03DA0195])
      ∧ after (hostTurn { s with program := [.wr .adlerIn 0x03DA0195] }) State.adlerIn = some 0x03DA0195 := by decide
/-- A row's word is the next instruction run. -/
theorem test_fetch_words :
    after (step (State.reset.withFetchWord 32 1)) State.faults = some [.unwrittenInput 0x00]
      ∧ after (step (State.reset.withFetchWord 8 0x22)) State.seq = some .vexit
      ∧ after (step (State.reset.withFetchWord 8 0x11)) State.ptr = some 1 := by decide

/-! ### Witnesses: a state that meets each obligation's hypotheses -/

/-- "abc" at 0x1000, at UNPACK. -/
def abc : State :=
  { running .unpack 1 0x1000 3 with mem := countMem 0x1000 0x61 3 }

/-- One region the read port does not admit. -/
def blocked : List Region := [⟨0x1000, 1, .unmapped⟩]

theorem witness_step_runs_command :
    ({ State.reset with inputs := [.access (.write 32 0x18 1)] } : State).inputs = .access (.write 32 0x18 1) :: []
      ∧ decode (.cmd 1) = .instr .update := by decide
theorem witness_step_runs_micro_op :
    abc.inputs = [] ∧ ({ abc with inputs := [.engine] } : State).inputs = .engine :: []
      ∧ abc.faults = [] ∧ stuckAt abc = none ∧ seqCode abc.seq = some 0x10 ∧ decode (.uop 0x10) = .instr .unpack := by decide
/-- A register access, a memory write, a change of admission, and each line of a program, on both forms of the host's turn. -/
theorem witness_step_performs_pending :
    after (step { abc with inputs := [.access (.read 32 0x1C)] }) State.replies = some [⟨0x1C, 1⟩]
      ∧ after (step { abc with inputs := [.memWrite 0x1003 9] }) (fun t => memByte t.mem 0x1003) = some 9
      ∧ after (step { abc with inputs := [.admission blocked] }) State.unreadable = some blocked
      ∧ after (step { abc with inputs := [.host], program := [.rd .status] }) (fun t => (t.replies, t.program))
        = some ([⟨0x1C, 1⟩], [])
      ∧ after (step { State.reset with program := [.wr .adlerIn 7, .rd .status] }) (fun t => (t.adlerIn, t.program))
        = some (7, [.rd .status])
      ∧ after (step { State.reset with program := [.store 0xFFFFFFFF 7] }) State.mem = some [(0xFFFFFFFF, 7)]
      ∧ after (step { abc with inputs := [.host] }) State.inputs = some [] := by decide
theorem witness_host_turn :
    HostTurn { State.reset with program := [.waitDone] } { State.reset with program := [.waitDone] }
      ∧ HostTurn { abc with inputs := [.host], program := [.chain] } { abc with program := [.chain] } :=
  ⟨Or.inl ⟨rfl, rfl, rfl⟩, Or.inr ⟨[], rfl, rfl⟩⟩
/-- The two other cases of CHAIN: a result that is there, and a read that faults. -/
theorem witness_chain_idle :
    after (step { State.reset with
        adlerOut := 5, written := { Marks.clear with adlerOut := true }, program := [.chain] }) State.program
        = some [.wr .adlerIn 5]
      ∧ after (step { State.reset with program := [.chain] }) (fun t => (t.faults, t.draws))
        = some ([.unwrittenRead 0x04], 1) := by decide
/-- A step of the engine other than PACK's, and steps of the host that write another register or read. -/
theorem witness_not_pack_step :
    after (step abc) State.seq = some .tail ∧ abc.inputs.head? ≠ some .reset
      ∧ abc.inputs.head? ≠ some (.access (.write 32 0x18 1)) ∧ (∀ u, EngineTurn abc u → abc.seq = .pack → abc.faults ≠ [])
      ∧ (∀ u rest, HostTurn abc u → u.program ≠ .wr .cmd 1 :: rest) := by
  refine ⟨by decide, by decide, by decide, fun _ _ h => absurd h (by decide), ?_⟩
  rintro u rest (⟨-, -, rfl⟩ | ⟨_, h, -⟩)
  · exact List.cons_ne_nil _ _ |>.symm
  · exact absurd h (List.cons_ne_nil _ _).symm
theorem witness_engine_waits :
    State.reset.inputs = [] ∧ State.reset.seq = .idle
      ∧ ({ abc with faults := [.cmdWhileBusy] } : State).faults ≠ []
      ∧ stuckAt { abc with seq := .tail, ptr := 0x1000, unreadable := blocked } ≠ none := by decide
theorem witness_micro_op_next : ∃ t, exec .unpack abc = .next t := ⟨_, rfl⟩
theorem witness_reserved_command :
    ({ abc with inputs := [.access (.write 32 0x18 2)] } : State).inputs = .access (.write 32 0x18 2) :: []
      ∧ (2 : Word) ≠ 1 := by decide
/-- Each branch of UPDATE: reserved, busy, the five unwritten registers in order, accepted. -/
theorem witness_update_branches :
    abc.cfg.wf = true ∧ wide.wf = true ∧ abc.busy = true ∧ (ready 1 0 0).busy = false
      ∧ firstUnwritten .reset = some 0x00
      ∧ firstUnwritten { ready 1 0 0 with written := { marks with bufAddrLo := false } } = some 0x08
      ∧ firstUnwritten { ready 1 0 0 with cfg := wide, written := { marks with bufAddrHi := false } } = some 0x0C
      ∧ firstUnwritten { ready 1 0 0 with written := { marks with bufLenLo := false } } = some 0x10
      ∧ firstUnwritten { ready 1 0 0 with cfg := wide, written := { marks with bufLenHi := false } } = some 0x14
      ∧ firstUnwritten { ready 1 0 0 with cfg := wide } = none := by decide
theorem witness_update_accepted :
    after (exec .update (ready 1 0x1000 3)) (fun t => (statusWord t, t.seq)) = some (1, .unpack) := by decide
theorem witness_bad_config : ({ abc with cfg := badCfg } : State).cfg.wf = false := by decide
/-- The largest range that does not wrap, and the smallest that does. -/
theorem witness_unpack_range :
    let s := running .unpack 1 0xFFFFFFF0 0x10
    let w := running .unpack 1 0xFFFFFFF0 0x11
    s.faults = [] ∧ s.cfg.wf = true ∧ s.seq = .unpack ∧ bufAddr s + bufLen s = 2 ^ s.cfg.addrW.bits
      ∧ w.faults = [] ∧ w.cfg.wf = true ∧ w.seq = .unpack ∧ bufAddr w + bufLen w = 2 ^ w.cfg.addrW.bits + 1 := by decide
/-- UNP-7, UNP-5, UNP-9 and UNP-6: each successor of UNPACK. -/
theorem witness_unpack_successors :
    ([(0x100F, 0), (0x100F, 3), (0xFFFFFFF0, 0x10), (0x1000, 3)] : List (Word × Word)).map
        (fun p => after (exec .unpack (running .unpack 1 p.1 p.2)) State.seq)
      = [some .pack, some .head, some .venter, some .tail] := by decide
theorem witness_sbyte_admitted :
    let h := { running .head 1 0x1001 5 with ptr := 0x1001, rem := 5, head := 5 }
    let t := { running .tail 1 0x1000 3 with ptr := 0x1000, rem := 3 }
    h.seq = .head ∧ h.faults = [] ∧ h.cfg.wf = true ∧ admitted h h.ptr.toNat = true
      ∧ t.seq = .tail ∧ t.faults = [] ∧ t.cfg.wf = true ∧ admitted t t.ptr.toNat = true := by decide
theorem witness_stuck_reads :
    let b := { running .tail 1 0x1000 3 with ptr := 0x1000, rem := 3, unreadable := blocked }
    let v := { running .vword 1 0xFF0 32 with ptr := 0xFF1, rem := 32, chunk := 32, unreadable := blocked }
    (stuckAt b, after (exec .sbyte b) id) = (some 0x1000, some b)
      ∧ (stuckAt v, after (exec .vword v) id) = (some 0xFF1, some v)
      ∧ admitted { abc with unreadable := blocked } 0xFFF = true
      ∧ admitted { abc with unreadable := blocked } 0x1001 = true := by decide
/-- R212: only the engine is held up. The host reads STATUS, and once the read is admitted SBYTE runs. -/
theorem test_stuck_engine_only :
    let s := { running .tail 1 0x1000 1 with ptr := 0x1000, rem := 1, unreadable := blocked }
    after (step { s with program := [.rd .status] }) State.replies = some [⟨0x1C, 1⟩]
      ∧ after (Host.Core.run core 3 { s with inputs := [.engine, .admission []] }) (fun t => (t.rem, t.seq))
        = some (0, .finalmod) := by decide
theorem witness_named_phases :
    [Seq.finalmod, .pack, .venter, .vword, .vfold, .vexit].map (fun q => seqInstr (running q 1 0x1000 16).seq)
        = [some .finalmod, some .pack, some .venter, some .vword, some .vfold, some .vexit]
      ∧ (running .pack 1 0x1000 16).faults = [] ∧ (running .pack 1 0x1000 16).cfg.wf = true := by decide
/-- The last sixteen bytes of the address space. -/
theorem witness_vword_admitted :
    let s := { running .vword 1 0xFFFFFFF0 16 with ptr := 0xFFFFFFF0, rem := 16, chunk := 16 }
    s.faults = [] ∧ s.cfg.wf = true ∧ s.seq = .vword
      ∧ ∀ k, k < 16 → admitted s (s.ptr.toNat + k) = true := by decide
theorem witness_exec_next_each :
    ([(Instr.update, Seq.idle), (.unpack, .unpack), (.sbyte, .head), (.sbyte, .tail), (.finalmod, .finalmod), (.pack, .pack),
      (.venter, .venter), (.vword, .vword), (.vfold, .vfold), (.vexit, .vexit)].map
        (fun p => (stuckAt (running p.2 1 0x1000 16), after (exec p.1 (running p.2 1 0x1000 16)) State.mem)))
      = List.replicate 10 (none, some []) := by decide
theorem witness_step_next :
    after (step abc) State.seq = some .tail ∧ abc.inputs.head? ≠ some .reset ∧ abc.written.adlerIn = true
      ∧ after (step { abc with faults := [.cmdWhileBusy], refusalMark := true }) State.refusalMark = some true := by decide
/-- Reserved offsets and accesses that are no aligned 32-bit access, at the ends of their ranges. -/
theorem witness_reserved_and_bad :
    slotAt .default 0x0C = none ∧ slotAt .default 0x14 = none ∧ slotAt wide 0x20 = none ∧ slotAt wide 0x1C = some .status
      ∧ slotAt wide 0x0C = some .bufAddrHi ∧ slotAt wide 0x14 = some .bufLenHi
      ∧ (Access.read 16 0x20).wf = false ∧ (Access.read 32 0x1D).wf = false ∧ (Access.read 32 0x20).wf = true := by decide
theorem witness_input_writes :
    (ready 1 0 0).busy = false ∧ abc.busy = true ∧ wide.addrW = .w64 ∧ wide.lenW = .w64
      ∧ after (hostAccess (.write 32 0x14 9) { State.reset with cfg := wide }) (fun t => (t.bufLenHi, t.written.bufLenHi))
        = some (9, true)
      ∧ after (hostAccess (.write 32 0x0C 9) { running .unpack 1 0 0 with cfg := wide }) State.faults
        = some [.writeWhileBusy 0x0C] := by decide
theorem witness_input_reads :
    after (hostAccess (.read 32 0x00) (ready 5 0 0)) State.replies = some [⟨0x00, 5⟩]
      ∧ after (hostAccess (.read 32 0x14) { State.reset with cfg := wide }) State.faults = some [.unwrittenRead 0x14] := by
  decide
/-- Every input register in use, written and read, and written while BUSY. -/
theorem witness_input_offsets :
    [0x00, 0x08, 0x0C, 0x10, 0x14].map (fun o =>
        (after (hostAccess (.read 32 o) { ready 0 0 0 with cfg := wide }) State.replies,
         after (hostAccess (.write 32 o 9) { running .unpack 0 0 0 with cfg := wide }) State.faults))
      = [0x00, 0x08, 0x0C, 0x10, 0x14].map (fun o => (some [⟨o, 0⟩], some [.writeWhileBusy o])) := by decide
theorem witness_result_reads :
    abc.busy = true ∧ (ready 1 0 0).busy = false ∧ (ready 1 0 0).written.adlerOut = false
      ∧ ({ State.reset with written := { marks with adlerOut := true } } : State).written.adlerOut = true := by decide
theorem witness_same_to_host : SameToHost abc { abc with s1 := 5, seq := .vfold } := rfl
theorem witness_host_access_next : ∃ t, hostAccess (.read 32 0x1C) abc = .next t := ⟨_, rfl⟩
/-- The first and last buffer byte, the bytes around it, and the last address. -/
theorem witness_buffer_writes :
    abc.mem.wf = true ∧ abc.busy = true ∧ [0xFFF, 0x1000, 0x1002, 0x1003].map (inBuffer abc) = [false, true, true, false]
      ∧ after (memoryWrite 0xFFFFFFFF 1 abc) State.mem
        = some [(0x1000, 0x61), (0x1001, 0x62), (0x1002, 0x63), (0xFFFFFFFF, 1)]
      ∧ faultOf (memoryWrite 0x100000000 1 abc) = some (.noSuchAddress 0x100000000) := by decide
theorem witness_reset_event : ({ abc with inputs := [.reset] } : State).inputs = .reset :: [] := rfl
theorem witness_widths : Params.default.addrW = .w32 ∧ Params.default.lenW = .w32 ∧ wide.addrW = .w64 := by decide
theorem witness_vector_bytes : (List.replicate 16 (0xFF : Byte)).length = 16 ∧ (3 : Nat) < 4 := by decide
theorem witness_vword_next :
    after (exec .vword (running .vword 1 0x1000 16)) State.seq = some .vword := by decide
theorem witness_small_words : (65535 : Word).toNat < 65536 ∧ ¬ (65536 : Word).toNat < 65536 := by decide
theorem witness_nonempty_bytes : ([0x61] : List Byte) ≠ [] := by decide
theorem witness_canonical_memory : abc.mem.wf = true ∧ after (step abc) (fun t => t.mem.wf) = some true := by decide

/-- "abc" one byte before the end, at TAIL: target sums 196 and 294 (SB-2). -/
def abcTail : State :=
  { abc with seq := .tail, s1 := 196, s2 := 294, ptr := 0x1002, rem := 1 }

/-- Bytes 1 to 16 at VWORD, before the read (UPD-6). -/
def oneRead : State :=
  { running .vword 1 0x1000 16 with
    mem := countMem 0x1000 1 16, ptr := 0x1000, rem := 16, chunk := 16, vs1 := ⟨1, 0, 0, 0⟩ }

/-- "abc" at PACK (P1). -/
def abcPack : State :=
  { abc with seq := .pack, s1 := 295, s2 := 589, ptr := 0x1003, rem := 0 }

theorem witness_inv_unpack : EngineInv abc :=
  ⟨by decide, by decide, by decide, by decide, trivial⟩
theorem witness_inv_tail : EngineInv abcTail :=
  ⟨by decide, by decide, by decide, by decide, by
    refine ⟨⟨?_, ?_, ?_, ?_⟩, ?_, ?_, ⟨?_, ?_⟩, ?_, ?_⟩ <;> decide⟩
theorem witness_inv_pack : EngineInv abcPack :=
  ⟨by decide, by decide, by decide, by decide, by
    refine ⟨⟨?_, ?_, ?_, ?_⟩, ?_, ?_, ?_, ?_, ?_⟩ <;> decide⟩
theorem witness_inv_vword : EngineInv oneRead :=
  ⟨by decide, by decide, by decide, by decide, by
    refine ⟨⟨?_, ?_, ?_, ?_⟩, ?_, ?_, ?_, ?_, ?_, ⟨?_, ?_⟩, ⟨?_, ?_⟩, ⟨?_, ?_⟩, ⟨?_, ?_⟩, ?_, ?_⟩ <;> decide⟩
/-- The byte before an aligned address, at HEAD, with two bytes to read. -/
def oneHead : State :=
  { running .head 1 0x100F 2 with s1 := 1, ptr := 0x100F, rem := 2, head := 1 }

theorem witness_inv_head : EngineInv oneHead :=
  ⟨by decide, by decide, by decide, by decide, by
    refine ⟨⟨?_, ?_, ?_, ?_⟩, ?_, ?_, ?_, ?_, ⟨?_, ?_⟩, ?_, ?_⟩ <;> decide⟩
theorem witness_inv_steps :
    stuckAt abcTail = none ∧ stuckAt oneRead = none ∧ after (step abcTail) State.seq = some .finalmod ∧ after (step oneRead) State.seq = some .vfold
      ∧ after (exec .sbyte abcTail) (fun t => (t.s1, t.s2)) = some (295, 589)
      ∧ after (exec .vword oneRead) State.vs1 = some ⟨11, 26, 42, 58⟩ := by decide
theorem witness_packed_result :
    abcPack.faults = [] ∧ abcPack.cfg.wf = true ∧ abcPack.cfg.priorPolicy = .reduce ∧ 0 < bufLen abcPack
      ∧ priorInvalid abcPack.adlerIn = false := by decide
theorem witness_zero_length :
    let s := running .unpack 0xFFFFFFFF 0x100F 0
    s.inputs = [] ∧ s.faults = [] ∧ s.cfg.wf = true ∧ s.seq = .unpack ∧ bufLen s = 0 := by decide
theorem witness_headline :
    abc.inputs = [] ∧ abc.faults = [] ∧ abc.cfg.wf = true ∧ abc.seq = .unpack ∧ NoWrap abc
      ∧ abc.cfg.priorPolicy ≠ .any :=
  ⟨rfl, rfl, by decide, rfl, by decide, by decide⟩
theorem witness_headline_admitted : BufferAdmitted abc := by decide
theorem witness_update_steps : updateSteps abc = 6 := by decide

end Sys2Proof.Tests
end

section
/-! The parameters: no named update, no meaning and no step of any agent writes State.cfg (00_scope.md R16 to R21). -/

namespace Sys2Proof.Machine

/-! ### The updates built from the named ones -/

@[simp] theorem unpackWrites_cfg (s : State) : (unpackWrites s).cfg = s.cfg := rfl

@[simp] theorem sbyteWrites_cfg (s : State) (b : Byte) : (sbyteWrites s b).cfg = s.cfg := rfl

@[simp] theorem vwordWrites_cfg (s : State) (v : VecWord) : (vwordWrites s v).cfg = s.cfg := rfl

@[simp] theorem resetBlock_cfg (s : State) : (resetBlock s).cfg = s.cfg := rfl

@[simp] theorem packResult_cfg (s : State) : (packResult s).cfg = s.cfg := by
  unfold packResult
  split <;> simp

@[simp] theorem writeInput_cfg (s : State) (r : Slot) (v : Word) : (writeInput s r v).cfg = s.cfg := by
  cases r <;> rfl

/-! ### The meanings -/

/-- An instruction that answers a next state leaves the parameters alone. -/
theorem exec_cfg {i : Instr} {s t : State} (h : exec i s = .next t) : t.cfg = s.cfg := by
  cases i with
  | update =>
    obtain ⟨-, rfl⟩ | ⟨-, -, rfl⟩ | ⟨-, -, o, -, rfl⟩ | ⟨-, -, -, rfl⟩ := execUpdate_next h <;> simp
  | unpack => obtain ⟨-, -, -, ⟨-, rfl⟩ | ⟨-, rfl⟩⟩ := execUnpack_next h <;> simp
  | sbyte => obtain ⟨-, -, -, ⟨-, rfl⟩ | ⟨-, rfl⟩⟩ := execSbyte_next h <;> simp
  | finalmod => obtain ⟨-, -, -, rfl⟩ := execFinalmod_next h; simp
  | pack => obtain ⟨-, -, -, rfl⟩ := execPack_next h; simp
  | venter => obtain ⟨-, -, -, rfl⟩ := execVenter_next h; simp
  | vword => obtain ⟨-, -, -, ⟨-, rfl⟩ | ⟨-, rfl⟩⟩ := execVword_next h <;> simp
  | vfold => obtain ⟨-, -, -, ⟨-, rfl⟩ | ⟨-, rfl⟩⟩ := execVfold_next h <;> simp
  | vexit => obtain ⟨-, -, -, rfl⟩ := execVexit_next h; simp

/-! ### The agents' steps -/

/-- No host register access writes a parameter. -/
theorem AccessEffect.cfg_eq {s t : State} (h : AccessEffect s t) : t.cfg = s.cfg := by
  cases h with
  | refused r => exact refuse_cfg s r
  | faulted r => exact recordFault_cfg s r
  | stored r v _ => exact writeInput_cfg s r v
  | replied o v => exact reply_cfg s o v
  | drawn o _ => simp
  | command _ run => exact exec_cfg run

/-- No line of the host's program writes a parameter. -/
theorem LineEffect.cfg_eq {s t : State} (h : LineEffect s t) : t.cfg = s.cfg := by
  cases h with
  | access u p d effect => exact effect.cfg_eq
  | writeRefused addr _ _ => exact refuse_cfg s (.bufWriteWhileBusy addr)
  | memory addr b _ => rfl

/-- No step of the engine, the host or the platform writes a parameter; a reset event keeps them (log entry 18). -/
theorem StepEffect.cfg_eq {s t : State} (h : StepEffect s t) : t.cfg = s.cfg := by
  cases h with
  | waits _ => rfl
  | engine i _ _ _ _ run => exact exec_cfg run
  | access _ effect => exact effect.cfg_eq
  | line _ effect => exact effect.cfg_eq
  | writeRefused addr _ _ => exact refuse_cfg s (.bufWriteWhileBusy addr)
  | memory addr b _ => rfl
  | admission rs => rfl
  | reset => exact resetBlock_cfg s

/-- Settles O26, by the cases of what a step can do. -/
theorem stepNeverChangesParameters : Obligations.StepNeverChangesParameters := by
  unfold Obligations.StepNeverChangesParameters
  intro s t h
  exact (step_next h).cfg_eq

end Sys2Proof.Machine
end

section
/-! Arithmetic of the datapath: FOLD, FOLD2 and MOD as numbers, the lane sums of a packed read, the allowed chunk bound,
the packed sums and the reference checksum by its unreduced sums. -/

namespace Sys2Proof.Machine

/-! ### FOLD, FOLD2, MOD -/

theorem fold_toNat (x : Word) : (fold x).toNat = x.toNat % 65536 + 15 * (x.toNat / 65536) := by
  have h15 : (15 : Word).toNat = 15 := rfl
  simp only [fold, BitVec.toNat_add, BitVec.toNat_mul, lowHalf_toNat, highHalf_toNat, h15]
  omega

theorem fold_mod (x : Word) : (fold x).toNat % Config.modulus = x.toNat % Config.modulus := by
  rw [fold_toNat, Config.modulus]
  omega

theorem fold2_mod (x : Word) : (fold2 x).toNat % Config.modulus = x.toNat % Config.modulus := by
  rw [fold2, fold_mod, fold_mod]

/-- FOLD2 leaves at most X0 (42_modular_fold.md R193). -/
theorem fold2_le (x : Word) : (fold2 x).toNat ≤ Config.laneStart := by
  rw [fold2, fold_toNat, fold_toNat, Config.laneStart]
  omega

theorem modM_toNat (x : Word) : (modM x).toNat = x.toNat % Config.modulus := by
  rw [modM, BitVec.toNat_ofNat, Config.modulus]
  omega

theorem packSums_toNat (s1 s2 : Word) :
    (packSums s1 s2).toNat = s2.toNat % 65536 * 65536 + s1.toNat % 65536 := by
  have h1 : (lowHalf s1).toNat < 2 ^ 16 := by rw [lowHalf_toNat]; omega
  have h2 : (lowHalf s2 <<< 16).toNat = (lowHalf s2).toNat * 2 ^ 16 := by
    rw [BitVec.toNat_shiftLeft, Nat.shiftLeft_eq, lowHalf_toNat]
    omega
  rw [packSums, BitVec.toNat_or, h2, Nat.mul_comm, ← Nat.two_pow_add_eq_or_of_lt h1, lowHalf_toNat, lowHalf_toNat]
  omega

/-! ### The bytes of a packed read, by lane -/

theorem laneByte_packVec_toNat (p : VecPack) {bs : List Byte} {l g : Nat} (hlen : bs.length = Config.width)
    (hl : l < 4) (hg : g < 4) : (laneByte p (packVec p bs) l g).toNat = (bs.getD (4 * l + g) 0).toNat := by
  have hk : Config.group * l + g < bs.length := by simp only [hlen, Config.group, Config.width]; omega
  rw [laneByte, vecByte_packVec p bs hlen _ hk, BitVec.toNat_setWidth, List.getD_eq_getElem _ _ hk]
  exact Nat.mod_eq_of_lt (by omega)

theorem hsum_packVec_toNat (p : VecPack) {bs : List Byte} {l : Nat} (hlen : bs.length = Config.width) (hl : l < 4) :
    (hsum p (packVec p bs) l).toNat = (bs.getD (4 * l) 0).toNat + (bs.getD (4 * l + 1) 0).toNat
      + (bs.getD (4 * l + 2) 0).toNat + (bs.getD (4 * l + 3) 0).toNat := by
  have lane := fun g (hg : g < 4) => laneByte_packVec_toNat p hlen hl hg
  simp only [hsum, BitVec.toNat_add, lane 0 (by decide), lane 1 (by decide), lane 2 (by decide),
    lane 3 (by decide), Nat.add_zero]
  omega

theorem hsum_packVec_le (p : VecPack) {bs : List Byte} {l : Nat} (hlen : bs.length = Config.width) (hl : l < 4) :
    (hsum p (packVec p bs) l).toNat ≤ 1020 := by
  rw [hsum_packVec_toNat p hlen hl]
  omega

theorem wsum_packVec_toNat (p : VecPack) {bs : List Byte} {l : Nat} (hlen : bs.length = Config.width) (hl : l < 4) :
    (wsum p (packVec p bs) l).toNat
      = (16 - 4 * l) * (bs.getD (4 * l) 0).toNat + (15 - 4 * l) * (bs.getD (4 * l + 1) 0).toNat
        + (14 - 4 * l) * (bs.getD (4 * l + 2) 0).toNat + (13 - 4 * l) * (bs.getD (4 * l + 3) 0).toNat := by
  have lane := fun g (hg : g < 4) => laneByte_packVec_toNat p hlen hl hg
  simp only [wsum, laneWeight, Config.width, Config.group, BitVec.toNat_add, BitVec.toNat_mul, BitVec.toNat_ofNat,
    lane 0 (by decide), lane 1 (by decide), lane 2 (by decide),
    lane 3 (by decide), Nat.add_zero]
  obtain rfl | rfl | rfl | rfl : l = 0 ∨ l = 1 ∨ l = 2 ∨ l = 3 := by omega
  all_goals simp only [Nat.reduceMul, Nat.reduceAdd, Nat.reduceSub, Nat.reduceMod, Nat.reducePow] at *; omega

theorem wsum_packVec_le (p : VecPack) {bs : List Byte} {l : Nat} (hlen : bs.length = Config.width) (hl : l < 4) :
    (wsum p (packVec p bs) l).toNat ≤ 14790 - 4080 * l := by
  rw [wsum_packVec_toNat p hlen hl]
  obtain rfl | rfl | rfl | rfl : l = 0 ∨ l = 1 ∨ l = 2 ∨ l = 3 := by omega
  all_goals omega

/-! ### The allowed chunk -/

theorem chunkBound_mono {k m : Nat} (h : k ≤ m) : chunkBound k ≤ chunkBound m := by
  unfold chunkBound
  have htri : k * (k - 1) / 2 ≤ m * (m - 1) / 2 :=
    Nat.div_le_div_right (Nat.mul_le_mul h (Nat.sub_le_sub_right h 1))
  gcongr

/-- An allowed VNMAX is a positive multiple of 16, at most 10608, and its lane bound fits a word
(41_vector_reduce.md R169). -/
theorem vnmaxOk_bounds {v : Nat} (h : vnmaxOk v = true) :
    v % 16 = 0 ∧ 16 ≤ v ∧ v ≤ 10608 ∧ chunkBound (v / 16) < 2 ^ 32 := by
  simp only [vnmaxOk, Config.width, Bool.and_eq_true, beq_iff_eq, decide_eq_true_eq] at h
  obtain ⟨⟨hmul, hpos⟩, hbound⟩ := h
  have hmax : v / 16 < 664 := by
    by_contra hbig
    have h664 : 2 ^ 32 ≤ chunkBound 664 := by decide
    have := chunkBound_mono (Nat.le_of_not_lt hbig)
    omega
  exact ⟨hmul, by omega, by omega, by omega⟩

/-! ### The reference checksum by its unreduced sums -/

/-- The recurrence modulo M agrees with the unreduced one (41_vector_reduce.md R171). -/
theorem foldl_adlerByte_mod (p : Nat × Nat) (bs : List Byte) :
    (bs.foldl adlerByte p).1 % Config.modulus = (bs.foldl rawByte p).1 % Config.modulus
      ∧ (bs.foldl adlerByte p).2 % Config.modulus = (bs.foldl rawByte p).2 % Config.modulus := by
  induction bs using List.reverseRecOn with
  | nil => exact ⟨rfl, rfl⟩
  | append_singleton bs b ih =>
    obtain ⟨ih1, ih2⟩ := ih
    simp only [List.foldl_append, List.foldl_cons, List.foldl_nil, adlerByte, rawByte, Config.modulus] at ih1 ih2 ⊢
    omega

/-- Over a nonempty stream both components of the recurrence are reduced (40_engine_update.md R120). -/
theorem foldl_adlerByte_lt (p : Nat × Nat) {bs : List Byte} (h : bs ≠ []) :
    (bs.foldl adlerByte p).1 < Config.modulus ∧ (bs.foldl adlerByte p).2 < Config.modulus := by
  obtain ⟨init, b, rfl⟩ := List.eq_nil_or_concat bs |>.resolve_left h
  simp only [List.concat_eq_append, List.foldl_append, List.foldl_cons, List.foldl_nil, adlerByte, Config.modulus]
  omega

theorem foldl_adlerByte_eq (p : Nat × Nat) {bs : List Byte} (h : bs ≠ []) :
    bs.foldl adlerByte p = ((bs.foldl rawByte p).1 % Config.modulus, (bs.foldl rawByte p).2 % Config.modulus) := by
  obtain ⟨h1, h2⟩ := foldl_adlerByte_mod p bs
  obtain ⟨l1, l2⟩ := foldl_adlerByte_lt p h
  rw [Nat.mod_eq_of_lt l1] at h1
  rw [Nat.mod_eq_of_lt l2] at h2
  exact Prod.ext h1 h2

/-- Adler of an empty stream is the prior (40_engine_update.md R120). -/
theorem adler_nil (a : Word) : adler a [] = a := by
  apply BitVec.eq_of_toNat_eq
  simp only [adler, halves, List.foldl_nil, BitVec.toNat_ofNat]
  omega

/-- Adler of a nonempty stream packs its unreduced sums modulo M. -/
theorem adler_toNat (a : Word) {bs : List Byte} (h : bs ≠ []) :
    (adler a bs).toNat = (rawSums a bs).2 % Config.modulus * 65536 + (rawSums a bs).1 % Config.modulus := by
  simp only [adler, foldl_adlerByte_eq (halves a) h, rawSums, Config.modulus, BitVec.toNat_ofNat]
  omega

end Sys2Proof.Machine
end

section
/-! The engine invariant through the micro-operations: what a read does to ptr, rem and the scalar sums, the phase that
follows each micro-operation, and that every one of them keeps the invariant. -/

namespace Sys2Proof.Machine

/-! ### Where ptr stands -/

theorem addrSpace_mod_align (s : State) : addrSpace s % Config.align = 0 := by
  obtain h | h := BitWidth.pow_cases s.cfg.addrW <;> rw [addrSpace, h] <;> rfl

theorem consumed_le (s : State) : consumed s ≤ bufLen s := Nat.sub_le _ _

/-- While bytes are left, ptr is the address of the next byte of the stream, with no wrap (20_memory.md R69). -/
theorem placed_ptr_eq {s : State} (h : Placed s) (hr : 0 < s.rem.toNat) :
    s.ptr.toNat = bufAddr s + consumed s := by
  obtain ⟨hwrap, hrem, hptr, -⟩ := h
  rw [hptr, Nat.mod_eq_of_lt]
  simp only [consumed, NoWrap] at *
  omega

theorem placed_consume_rem {s : State} (h : Placed s) {n : Nat} (hn : n ≤ s.rem.toNat) :
    (consume s n).rem.toNat = s.rem.toNat - n := by
  obtain ⟨-, hrem, -, -⟩ := h
  have hlen := bufLen_lt s
  rw [consume_rem_toNat, show s.rem.toNat + (lenSpace s - n) = s.rem.toNat - n + lenSpace s by omega,
    Nat.add_mod_right, Nat.mod_eq_of_lt (by omega)]

theorem placed_consume_consumed {s : State} (h : Placed s) {n : Nat} (hn : n ≤ s.rem.toNat) :
    consumed (consume s n) = consumed s + n := by
  have hrem' := placed_consume_rem h hn
  obtain ⟨-, hrem, -, -⟩ := h
  simp only [consumed, hrem', show bufLen (consume s n) = bufLen s from rfl]
  omega

/-- A read of n of the bytes left keeps ptr at the next byte. -/
theorem placed_consume {s : State} (h : Placed s) {n : Nat} (hn : n ≤ s.rem.toNat) : Placed (consume s n) := by
  have hrem' := placed_consume_rem h hn
  have hcon := placed_consume_consumed h hn
  obtain ⟨hwrap, hrem, hptr, hinv⟩ := h
  refine ⟨hwrap, ?_, ?_, hinv⟩
  · rw [hrem']
    exact Nat.le_trans (Nat.sub_le _ _) hrem
  · rw [consume_ptr_toNat, hptr, hcon, Nat.mod_add_mod, Nat.add_assoc]
    rfl

/-- A read of n bytes moves ptr by n as far as alignment is concerned, also where it wraps. -/
theorem consume_ptr_mod_align (s : State) (n : Nat) :
    (consume s n).ptr.toNat % Config.align = (s.ptr.toNat + n) % Config.align := by
  rw [consume_ptr_toNat, Nat.mod_mod_of_dvd _ (Nat.dvd_of_mod_eq_zero (addrSpace_mod_align s))]

/-! ### The scalar sums after a read -/

/-- The sums after one more byte: it is the byte at ptr (40_engine_update.md R126). -/
theorem placed_target_consume_one {s : State} (h : Placed s) (hr : 0 < s.rem.toNat) :
    target (consume s 1) = rawByte (target s) (memByte s.mem s.ptr.toNat) := by
  rw [placed_ptr_eq h hr]
  show rawSums s.adlerIn (streamTake s (consumed (consume s 1))) = _
  rw [placed_consume_consumed h hr, rawSums_streamTake_succ]
  rfl

/-- The unreduced sums after sixteen bytes at once (41_vector_reduce.md R171). -/
theorem rawSums_streamTake_width (a : Word) (s : State) (m : Nat) :
    let b := fun k => (streamByte s (m + k)).toNat
    rawSums a (streamTake s (m + 16)) =
      ((rawSums a (streamTake s m)).1 + (b 0 + b 1 + b 2 + b 3 + b 4 + b 5 + b 6 + b 7 + b 8 + b 9 + b 10 + b 11 + b 12
          + b 13 + b 14 + b 15),
        (rawSums a (streamTake s m)).2 + 16 * (rawSums a (streamTake s m)).1
          + (16 * b 0 + 15 * b 1 + 14 * b 2 + 13 * b 3 + 12 * b 4 + 11 * b 5 + 10 * b 6 + 9 * b 7 + 8 * b 8 + 7 * b 9
            + 6 * b 10 + 5 * b 11 + 4 * b 12 + 3 * b 13 + 2 * b 14 + b 15)) := by
  intro b
  have hstep : ∀ k, rawSums a (streamTake s (m + (k + 1))) =
      ((rawSums a (streamTake s (m + k))).1 + b k,
        (rawSums a (streamTake s (m + k))).2 + ((rawSums a (streamTake s (m + k))).1 + b k)) :=
    fun k => rawSums_streamTake_succ a s (m + k)
  simp only [hstep 15, hstep 14, hstep 13, hstep 12, hstep 11, hstep 10, hstep 9, hstep 8, hstep 7, hstep 6, hstep 5,
    hstep 4, hstep 3, hstep 2, hstep 1, hstep 0, Nat.add_zero, Prod.mk.injEq]
  constructor <;> ring

/-! ### Room for more bytes -/

/-- A byte read leaves room for one byte less (40_engine_update.md R126). -/
theorem scalarRoom_step {x y b n limit1 limit2 : Nat} (hb : b ≤ 255) (h1 : x + 255 * (n + 1) ≤ limit1)
    (h2 : y + (n + 1) * x + 255 * ((n + 1) * (n + 1 + 1) / 2) ≤ limit2) :
    x + b + 255 * n ≤ limit1 ∧ y + (x + b) + n * (x + b) + 255 * (n * (n + 1) / 2) ≤ limit2 := by
  have htri : (n + 1) * (n + 1 + 1) / 2 = n * (n + 1) / 2 + (n + 1) := by
    rw [show (n + 1) * (n + 1 + 1) = n * (n + 1) + (n + 1) * 2 by ring, Nat.add_mul_div_right _ _ two_pos]
  have hnb : n * b ≤ n * 255 := Nat.mul_le_mul_left n hb
  rw [htri, Nat.add_one_mul n x] at h2
  rw [Nat.mul_add n x b]
  omega

/-- At most fifteen more bytes fit where the sums leave room for fifteen. -/
theorem scalarRoom_of_le {s : State} {n limit1 limit2 : Nat} (hn : n ≤ 15) (h1 : s.s1.toNat + 3825 ≤ limit1)
    (h2 : s.s2.toNat + 15 * s.s1.toNat + 30600 ≤ limit2) : ScalarRoom s n limit1 limit2 := by
  have hmul : n * s.s1.toNat ≤ 15 * s.s1.toNat := Nat.mul_le_mul_right _ hn
  have htri : n * (n + 1) / 2 ≤ 15 * (15 + 1) / 2 := Nat.div_le_div_right (Nat.mul_le_mul hn (by omega))
  constructor <;> omega

/-- A vector read leaves room for one read less in every lane, and neither accumulator wraps
(41_vector_reduce.md R170). -/
theorem laneRoom_step {p : Params} {j : Nat} {v1 v2 h w : Word} (hp : p.wf = true)
    (room : LaneRoom p (j + 1) v1 v2) (hh : h.toNat ≤ 1020) (hw : w.toNat ≤ 14790) :
    (v1 + h).toNat = v1.toNat + h.toNat
      ∧ (v2 + BitVec.ofNat 32 Config.width * v1 + w).toNat = v2.toNat + 16 * v1.toNat + w.toNat
      ∧ LaneRoom p j (v1 + h) (v2 + BitVec.ofNat 32 Config.width * v1 + w) := by
  obtain ⟨room1, room2⟩ := room
  obtain ⟨-, -, hmax, hfit⟩ := vnmaxOk_bounds hp
  have htri : (j + 1) * (j + 1 - 1) / 2 = j * (j - 1) / 2 + j := by
    rw [Nat.triangle_succ]
  have hjh : j * h.toNat ≤ j * 1020 := Nat.mul_le_mul_left j hh
  simp only [Config.width, Config.laneStart] at room1 room2 ⊢
  rw [htri, Nat.add_one_mul j v1.toNat] at room2
  have e1 : (v1 + h).toNat = v1.toNat + h.toNat := by
    rw [BitVec.toNat_add]
    omega
  have e2 : (v2 + BitVec.ofNat 32 16 * v1 + w).toNat = v2.toNat + 16 * v1.toNat + w.toNat := by
    simp only [BitVec.toNat_add, BitVec.toNat_mul, BitVec.toNat_ofNat]
    omega
  refine ⟨e1, e2, ?_, ?_⟩
  · rw [e1]
    simp only [Config.width, Config.laneStart]
    omega
  · rw [e1, e2, Nat.mul_add j]
    simp only [Config.width]
    omega

end Sys2Proof.Machine
end

section
/-! The phase each micro-operation leaves the engine in, with that phase's facts (40_engine_update.md R124). -/

namespace Sys2Proof.Machine

/-- What PhaseInv asks when seq goes to q. -/
def PhaseFacts (q : Seq) (s : State) : Prop :=
  PhaseInv { s with seq := q }

/-! ### The scalar phases -/

/-- With fewer than sixteen bytes left the tail follows, or FINALMOD where none is left. -/
theorem phaseFacts_tail_or_finalmod {s : State} (placed : Placed s) (short : s.rem.toNat < Config.width)
    (nonempty : 0 < bufLen s) (sums : SumsCong s) (room : ScalarRoom s s.rem.toNat 266805 4238280) :
    PhaseFacts (if 0 < s.rem.toNat then .tail else .finalmod) s := by
  split
  · exact ⟨placed, by assumption, short, sums, room⟩
  · exact ⟨placed, Nat.eq_zero_of_not_pos (by assumption), nonempty, sums⟩

/-- After UNPACK with a nonempty buffer, and after each head byte. -/
theorem phaseFacts_successor_head {s : State} (placed : Placed s) (nonempty : 0 < bufLen s)
    (head_lt : s.head.toNat < Config.align) (head_le : s.head.toNat ≤ s.rem.toNat)
    (aligns : s.rem.toNat = s.head.toNat ∨ (s.ptr.toNat + s.head.toNat) % Config.align = 0)
    (sums : SumsExact s) (room : ScalarRoom s s.head.toNat 69360 1079160) : PhaseFacts (successor .head s) s := by
  rw [successor]
  split
  · exact ⟨placed, by assumption, head_lt, head_le, aligns, sums, room⟩
  · have head_zero : s.head.toNat = 0 := by omega
    rw [head_zero] at room aligns
    split
    · rename_i hlong
      refine ⟨placed, ?_, hlong, sums, room⟩
      simp only [Config.width, Config.align] at *
      show s.ptr.toNat % 16 = 0
      omega
    · rename_i hshort
      obtain ⟨room1, room2⟩ := room
      obtain ⟨sum1, sum2⟩ := sums
      refine phaseFacts_tail_or_finalmod placed (by omega) nonempty ⟨?_, ?_⟩
        (scalarRoom_of_le (by simp only [Config.width] at hshort; omega) (by omega) (by omega))
      · rw [sum1]
      · rw [sum2]

/-! ### UNPACK -/

theorem headLength_le (addr len : Nat) : headLength addr len ≤ len := Nat.min_le_right _ _

theorem headLength_lt_align (addr len : Nat) : headLength addr len < Config.align := by
  simp only [headLength, Config.align]
  omega

/-- The head ends at the end of the buffer or at a multiple of A (40_engine_update.md R130). -/
theorem headLength_aligns (addr len : Nat) :
    len = headLength addr len ∨ (addr + headLength addr len) % Config.align = 0 := by
  simp only [headLength, Config.align]
  omega

theorem unpackWrites_ptr (s : State) : (unpackWrites s).ptr.toNat = bufAddr s := by
  show (setPtr s (bufAddr s)).ptr.toNat = _
  rw [setPtr_ptr_toNat, Nat.mod_eq_of_lt (bufAddr_lt s)]

theorem unpackWrites_rem (s : State) : (unpackWrites s).rem.toNat = bufLen s := by
  show (setRem (setPtr s (bufAddr s)) (bufLen s)).rem.toNat = _
  rw [setRem_rem_toNat]
  exact Nat.mod_eq_of_lt (bufLen_lt s)

theorem unpackWrites_head (s : State) : (unpackWrites s).head.toNat = headLength (bufAddr s) (bufLen s) := by
  have hlt := headLength_lt_align (bufAddr s) (bufLen s)
  simp only [Config.align] at hlt
  show (BitVec.ofNat 5 _).toNat = _
  rw [BitVec.toNat_ofNat, Nat.mod_eq_of_lt (by omega)]

theorem unpackWrites_consumed (s : State) : consumed (unpackWrites s) = 0 := by
  rw [consumed, unpackWrites_rem]
  exact Nat.sub_self _

theorem unpackWrites_placed {s : State} (hwrap : NoWrap s) : Placed (unpackWrites s) := by
  refine ⟨hwrap, ?_, ?_, rfl⟩
  · exact Nat.le_of_eq (unpackWrites_rem s)
  · rw [unpackWrites_ptr, unpackWrites_consumed]
    exact (Nat.mod_eq_of_lt (bufAddr_lt s)).symm

/-- Before the first byte the sums are the halves of the prior (40_engine_update.md R125). -/
theorem unpackWrites_sumsExact (s : State) : SumsExact (unpackWrites s) := by
  rw [SumsExact, target, unpackWrites_consumed]
  exact ⟨lowHalf_toNat s.adlerIn, highHalf_toNat s.adlerIn⟩

/-- The two halves of a prior packed again are the prior (40_engine_update.md R129). -/
theorem packSums_halves (a : Word) : packSums (lowHalf a) (highHalf a) = a := by
  apply BitVec.eq_of_toNat_eq
  rw [packSums_toNat, lowHalf_toNat, highHalf_toNat]
  omega

theorem unpackWrites_phase {s : State} (hwrap : NoWrap s) :
    PhaseFacts (successor .unpack (unpackWrites s)) (unpackWrites s) := by
  have placed := unpackWrites_placed hwrap
  have hrem := unpackWrites_rem s
  have low_lt : (lowHalf s.adlerIn).toNat < 2 ^ 16 := by rw [lowHalf_toNat]; omega
  have high_lt : (highHalf s.adlerIn).toNat < 2 ^ 16 := by
    rw [highHalf_toNat]
    omega
  by_cases hlen : bufLen s = 0
  · have hstream : stream (unpackWrites s) = [] := by
      show streamTake (unpackWrites s) (bufLen s) = []
      rw [hlen]
      rfl
    rw [successor, if_pos (hrem.trans hlen)]
    refine ⟨placed, hrem.trans hlen, ?_, low_lt, high_lt, fun h => absurd hlen (Nat.ne_of_gt h)⟩
    show packSums (lowHalf s.adlerIn) (highHalf s.adlerIn) = adler s.adlerIn (stream (unpackWrites s))
    rw [hstream, adler_nil, packSums_halves]
  · have hhead := unpackWrites_head s
    have same : successor .unpack (unpackWrites s) = successor .head (unpackWrites s) := by
      rw [successor, successor, if_neg (by omega), if_pos (show 0 < (unpackWrites s).rem.toNat by omega)]
    have head_lt := headLength_lt_align (bufAddr s) (bufLen s)
    rw [same]
    refine phaseFacts_successor_head placed (Nat.pos_of_ne_zero hlen) ?_ ?_ ?_ (unpackWrites_sumsExact s)
      (scalarRoom_of_le ?_ ?_ ?_)
    · rwa [hhead]
    · rw [hhead, hrem]
      exact headLength_le _ _
    · rw [hhead, hrem, unpackWrites_ptr]
      exact headLength_aligns _ _
    · rw [hhead]
      exact Nat.le_of_lt_succ head_lt
    · show (lowHalf s.adlerIn).toNat + _ ≤ _
      omega
    · show (highHalf s.adlerIn).toNat + 15 * (lowHalf s.adlerIn).toNat + _ ≤ _
      omega

/-! ### SBYTE -/

/-- With room for one more byte than n, SBYTE adds without wrapping and leaves room for n (40_engine_update.md R126). -/
theorem sbyteWrites_sums {s : State} {n limit1 limit2 : Nat} (b : Byte) (room : ScalarRoom s (n + 1) limit1 limit2)
    (fits1 : limit1 < 2 ^ 32) (fits2 : limit2 < 2 ^ 32) :
    (sbyteWrites s b).s1.toNat = s.s1.toNat + b.toNat
      ∧ (sbyteWrites s b).s2.toNat = s.s2.toNat + (s.s1.toNat + b.toNat)
      ∧ ScalarRoom (sbyteWrites s b) n limit1 limit2 := by
  have hb : b.toNat ≤ 255 := Nat.le_of_lt_succ b.isLt
  obtain ⟨room1, room2⟩ := room
  obtain ⟨left1, left2⟩ := scalarRoom_step hb room1 room2
  have e1 : (sbyteWrites s b).s1.toNat = s.s1.toNat + b.toNat := by
    show (s.s1 + b.setWidth 32).toNat = _
    rw [BitVec.toNat_add, BitVec.toNat_setWidth]
    omega
  have e2 : (sbyteWrites s b).s2.toNat = s.s2.toNat + (s.s1.toNat + b.toNat) := by
    show (s.s2 + (sbyteWrites s b).s1).toNat = _
    rw [BitVec.toNat_add, e1]
    omega
  exact ⟨e1, e2, by rwa [e1], by rwa [e1, e2]⟩

theorem sbyteWrites_phase_head {s : State} (hq : s.seq = .head) (h : PhaseInv s) :
    PhaseFacts (successor .head (sbyteWrites s (memByte s.mem s.ptr.toNat)))
      (sbyteWrites s (memByte s.mem s.ptr.toNat)) := by
  rw [PhaseInv, hq] at h
  obtain ⟨placed, head_pos, head_lt, head_le, aligns, ⟨sum1, sum2⟩, room⟩ := h
  obtain ⟨n, hn⟩ := Nat.exists_eq_add_one_of_ne_zero (Nat.ne_of_gt head_pos)
  rw [hn] at room
  have target' := placed_target_consume_one placed (by omega)
  have hrem := placed_consume_rem placed (n := 1) (by omega)
  have hptr := consume_ptr_mod_align s 1
  have hhead : (sbyteWrites s (memByte s.mem s.ptr.toNat)).head.toNat = n := by
    have : (sbyteWrites s (memByte s.mem s.ptr.toNat)).head = s.head - 1 := if_pos hq
    rw [this, BitVec.toNat_sub_of_le (by rw [BitVec.le_def]; exact head_pos), hn]
    rfl
  obtain ⟨e1, e2, room'⟩ := sbyteWrites_sums (memByte s.mem s.ptr.toNat) room (by decide) (by decide)
  have placed' : Placed (sbyteWrites s (memByte s.mem s.ptr.toNat)) := placed_consume placed (by omega)
  refine phaseFacts_successor_head placed' ?_ ?_ ?_ ?_ ⟨?_, ?_⟩ ?_
  · obtain ⟨-, rem_le, -, -⟩ := placed
    exact Nat.lt_of_lt_of_le (by omega : 0 < s.rem.toNat) rem_le
  · omega
  · show _ ≤ (consume s 1).rem.toNat
    omega
  · rw [hhead]
    show (consume s 1).rem.toNat = n ∨ ((consume s 1).ptr.toNat + n) % Config.align = 0
    obtain last | aligned := aligns
    · exact Or.inl (by omega)
    · refine Or.inr (Eq.trans (Nat.ModEq.add_right n hptr) ?_)
      rwa [Nat.add_assoc, Nat.add_comm 1 n, ← hn]
  · rw [e1, sum1]
    exact congrArg Prod.fst target'.symm
  · rw [e2, sum1, sum2]
    exact congrArg Prod.snd target'.symm
  · rwa [hhead]

theorem sbyteWrites_phase_tail {s : State} (hq : s.seq = .tail) (h : PhaseInv s) :
    PhaseFacts (successor .tail (sbyteWrites s (memByte s.mem s.ptr.toNat)))
      (sbyteWrites s (memByte s.mem s.ptr.toNat)) := by
  rw [PhaseInv, hq] at h
  obtain ⟨placed, rem_pos, short, ⟨sum1, sum2⟩, room⟩ := h
  obtain ⟨n, hn⟩ := Nat.exists_eq_add_one_of_ne_zero (Nat.ne_of_gt rem_pos)
  rw [hn] at room
  have target' := placed_target_consume_one placed rem_pos
  have hrem : (sbyteWrites s (memByte s.mem s.ptr.toNat)).rem.toNat = n := by
    show (consume s 1).rem.toNat = n
    rw [placed_consume_rem placed rem_pos, hn]
    rfl
  obtain ⟨e1, e2, room'⟩ := sbyteWrites_sums (memByte s.mem s.ptr.toNat) room (by decide) (by decide)
  have placed' : Placed (sbyteWrites s (memByte s.mem s.ptr.toNat)) := placed_consume placed rem_pos
  refine phaseFacts_tail_or_finalmod placed' ?_ ?_ ⟨?_, ?_⟩ ?_
  · omega
  · obtain ⟨-, rem_le, -, -⟩ := placed
    exact Nat.lt_of_lt_of_le rem_pos rem_le
  · rw [e1, show target (sbyteWrites s (memByte s.mem s.ptr.toNat)) = _ from target']
    exact Nat.ModEq.add_right _ sum1
  · rw [e2, show target (sbyteWrites s (memByte s.mem s.ptr.toNat)) = _ from target']
    exact Nat.ModEq.add sum2 (Nat.ModEq.add_right _ sum1)
  · rwa [hrem]

end Sys2Proof.Machine
end

section
/-! The vector phase and the end of an UPDATE: each micro-operation from VENTER to FINALMOD leaves its
successor's facts. -/

namespace Sys2Proof.Machine

/-! ### The start of a chunk -/

/-- The chunk fits its fourteen bits (10_state.md R40). -/
theorem startChunk_chunk_toNat {s : State} (hp : s.cfg.wf = true) :
    (startChunk s).chunk.toNat = min s.cfg.vnmax (s.rem.toNat - s.rem.toNat % 16) := by
  obtain ⟨-, -, hmax, -⟩ := vnmaxOk_bounds hp
  rw [startChunk_chunk, chunkLength, BitVec.toNat_ofNat, Config.width, Nat.mod_eq_of_lt (by omega)]

/-- Folded lanes have room for every read of a chunk (41_vector_reduce.md R169). -/
theorem laneRoom_of_folded {p : Params} {j : Nat} {v1 v2 : Word} (hj : j ≤ p.vnmax / Config.width)
    (h1 : v1.toNat ≤ Config.laneStart) (h2 : v2.toNat ≤ Config.laneStart) : LaneRoom p j v1 v2 := by
  have hmul : j * v1.toNat ≤ p.vnmax / Config.width * Config.laneStart := Nat.mul_le_mul hj h1
  have htri : j * (j - 1) / 2 ≤ p.vnmax / Config.width * (p.vnmax / Config.width - 1) / 2 :=
    Nat.div_le_div_right (Nat.mul_le_mul hj (Nat.sub_le_sub_right hj 1))
  refine ⟨by omega, ?_⟩
  simp only [chunkBound, Config.width, Config.laneStart, Config.group] at *
  omega

/-- Where a full read is left and the lanes are folded, VWORD follows with the lanes' room. -/
theorem startChunk_phase {s : State} (hp : s.cfg.wf = true) (placed : Placed s) (aligned : Aligned s)
    (full : Config.width ≤ s.rem.toNat) (cong : LanesCong s) (folded1 : LanesFolded s.vs1)
    (folded2 : LanesFolded s.vs2) :
    PhaseFacts .vword (startChunk s) := by
  have hchunk := startChunk_chunk_toNat hp
  obtain ⟨hmul, hpos, -, -⟩ := vnmaxOk_bounds hp
  obtain ⟨a0, a1, a2, a3⟩ := folded1
  obtain ⟨b0, b1, b2, b3⟩ := folded2
  have hreads : (startChunk s).chunk.toNat / Config.width ≤ s.cfg.vnmax / Config.width :=
    Nat.div_le_div_right (hchunk ▸ Nat.min_le_left _ _)
  refine ⟨placed, aligned, ?_, ?_, ?_, ?_, cong, laneRoom_of_folded hreads a0 b0, laneRoom_of_folded hreads a1 b1,
    laneRoom_of_folded hreads a2 b2, laneRoom_of_folded hreads a3 b3⟩
  · show 16 ≤ (startChunk s).chunk.toNat
    simp only [Config.width] at full
    omega
  · show (startChunk s).chunk.toNat % 16 = 0
    omega
  · show (startChunk s).chunk.toNat ≤ s.rem.toNat
    omega
  · show (startChunk s).chunk.toNat ≤ s.cfg.vnmax
    omega

/-! ### VENTER -/

theorem venter_phase {s : State} (hp : s.cfg.wf = true) (hq : s.seq = .venter) (h : PhaseInv s) :
    PhaseFacts .vword (startChunk { s with vs1 := ⟨fold2 s.s1, 0, 0, 0⟩, vs2 := ⟨fold2 s.s2, 0, 0, 0⟩ }) := by
  rw [PhaseInv, hq] at h
  obtain ⟨placed, aligned, full, ⟨sum1, sum2⟩, -⟩ := h
  have zero_le : (0 : Word).toNat ≤ Config.laneStart := by decide
  exact startChunk_phase (s := { s with vs1 := ⟨fold2 s.s1, 0, 0, 0⟩, vs2 := ⟨fold2 s.s2, 0, 0, 0⟩ })
    hp placed aligned full
    ⟨(fold2_mod s.s1).trans (congrArg (· % Config.modulus) sum1),
      (fold2_mod s.s2).trans (congrArg (· % Config.modulus) sum2)⟩
    ⟨fold2_le s.s1, zero_le, zero_le, zero_le⟩ ⟨fold2_le s.s2, zero_le, zero_le, zero_le⟩

/-! ### VWORD -/

/-- The sixteen bytes a vector read takes at ptr. -/
def readBytes (s : State) : List Byte :=
  (List.range Config.width).map (fun k => memByte s.mem (s.ptr.toNat + k))

theorem readBytes_length (s : State) : (readBytes s).length = Config.width := by
  simp [readBytes]

theorem readBytes_getD (s : State) {k : Nat} (hk : k < 16) :
    (readBytes s).getD k 0 = memByte s.mem (s.ptr.toNat + k) := by
  have : k < (readBytes s).length := by rw [readBytes_length]; exact hk
  rw [List.getD_eq_getElem _ _ this]
  simp [readBytes]

/-- VWORD adds in every lane without wrapping and leaves room for one read less (41_vector_reduce.md R170). -/
theorem vword_lane {s : State} {j l : Nat} {bs : List Byte} (hp : s.cfg.wf = true) (hlen : bs.length = Config.width)
    (hl : l < 4) (room : LaneRoom s.cfg (j + 1) (s.vs1.get l) (s.vs2.get l)) :
    let v := packVec s.cfg.vecPack bs
    let w := fun k => (bs.getD (4 * l + k) 0).toNat
    (s.vs1.get l + hsum s.cfg.vecPack v l).toNat = (s.vs1.get l).toNat + (w 0 + w 1 + w 2 + w 3)
      ∧ (s.vs2.get l + BitVec.ofNat 32 Config.width * s.vs1.get l + wsum s.cfg.vecPack v l).toNat
        = (s.vs2.get l).toNat + 16 * (s.vs1.get l).toNat
          + ((16 - 4 * l) * w 0 + (15 - 4 * l) * w 1 + (14 - 4 * l) * w 2 + (13 - 4 * l) * w 3)
      ∧ LaneRoom s.cfg j (s.vs1.get l + hsum s.cfg.vecPack v l)
        (s.vs2.get l + BitVec.ofNat 32 Config.width * s.vs1.get l + wsum s.cfg.vecPack v l) := by
  intro v w
  have hw : (wsum s.cfg.vecPack v l).toNat ≤ 14790 :=
    Nat.le_trans (wsum_packVec_le s.cfg.vecPack hlen hl) (Nat.sub_le _ _)
  obtain ⟨e1, e2, room'⟩ := laneRoom_step hp room (hsum_packVec_le s.cfg.vecPack hlen hl) hw
  refine ⟨?_, ?_, room'⟩
  · rw [e1, hsum_packVec_toNat _ hlen hl]
    rfl
  · rw [e2, wsum_packVec_toNat _ hlen hl]
    rfl

/-- The sums after a vector read: the bytes at ptr, each with its weight (41_vector_reduce.md R171). -/
theorem placed_target_consume_width {s : State} (h : Placed s) (hr : Config.width ≤ s.rem.toNat) :
    let b := fun k => ((readBytes s).getD k 0).toNat
    target (consume s Config.width) =
      ((target s).1 + (b 0 + b 1 + b 2 + b 3 + b 4 + b 5 + b 6 + b 7 + b 8 + b 9 + b 10 + b 11 + b 12 + b 13 + b 14
          + b 15),
        (target s).2 + 16 * (target s).1
          + (16 * b 0 + 15 * b 1 + 14 * b 2 + 13 * b 3 + 12 * b 4 + 11 * b 5 + 10 * b 6 + 9 * b 7 + 8 * b 8 + 7 * b 9
            + 6 * b 10 + 5 * b 11 + 4 * b 12 + 3 * b 13 + 2 * b 14 + b 15)) := by
  intro b
  have hb : ∀ k < 16, b k = (streamByte s (consumed s + k)).toNat := by
    intro k hk
    show ((readBytes s).getD k 0).toNat = _
    rw [readBytes_getD s hk, placed_ptr_eq h (Nat.lt_of_lt_of_le (by decide) hr), streamByte, Nat.add_assoc]
  have hstep : target (consume s Config.width) = rawSums s.adlerIn (streamTake s (consumed s + 16)) := by
    show rawSums s.adlerIn (streamTake s (consumed (consume s Config.width))) = _
    rw [placed_consume_consumed h hr]
  rw [hstep, rawSums_streamTake_width, hb 0 (by decide), hb 1 (by decide), hb 2 (by decide), hb 3 (by decide),
    hb 4 (by decide), hb 5 (by decide), hb 6 (by decide), hb 7 (by decide), hb 8 (by decide), hb 9 (by decide),
    hb 10 (by decide), hb 11 (by decide), hb 12 (by decide), hb 13 (by decide), hb 14 (by decide), hb 15 (by decide)]
  rfl

/-- VWORD's writes for the sixteen bytes at ptr. -/
abbrev vwordNext (s : State) : State :=
  vwordWrites s (packVec s.cfg.vecPack (readBytes s))

theorem lanesRoom_iff (s : State) :
    LanesRoom s ↔ ∀ l < 4, LaneRoom s.cfg (s.chunk.toNat / Config.width) (s.vs1.get l) (s.vs2.get l) := by
  constructor
  · rintro ⟨r0, r1, r2, r3⟩ l hl
    obtain rfl | rfl | rfl | rfl : l = 0 ∨ l = 1 ∨ l = 2 ∨ l = 3 := by omega
    exacts [r0, r1, r2, r3]
  · exact fun h => ⟨h 0 (by decide), h 1 (by decide), h 2 (by decide), h 3 (by decide)⟩

section
variable {s : State} {j : Nat} (hp : s.cfg.wf = true)
  (room : ∀ l < 4, LaneRoom s.cfg (j + 1) (s.vs1.get l) (s.vs2.get l))
include hp room

theorem vwordNext_lanesRoom (hj : (vwordNext s).chunk.toNat / Config.width = j) : LanesRoom (vwordNext s) := by
  have lane : ∀ l (hl : l < 4), _ := fun l hl => (vword_lane hp (readBytes_length s) hl (room l hl)).2.2
  rw [LanesRoom, hj]
  exact ⟨lane 0 (by decide), lane 1 (by decide), lane 2 (by decide), lane 3 (by decide)⟩

/-- The lanes' sums take the sixteen bytes with their weights, as the scalar sums do (41_vector_reduce.md R171). -/
theorem vwordNext_lanesCong (placed : Placed s) (full : Config.width ≤ s.rem.toNat) (cong : LanesCong s) :
    LanesCong (vwordNext s) := by
  have hlen := readBytes_length s
  obtain ⟨x0, y0, -⟩ := vword_lane (l := 0) hp hlen (by decide) (room 0 (by decide))
  obtain ⟨x1, y1, -⟩ := vword_lane (l := 1) hp hlen (by decide) (room 1 (by decide))
  obtain ⟨x2, y2, -⟩ := vword_lane (l := 2) hp hlen (by decide) (room 2 (by decide))
  obtain ⟨x3, y3, -⟩ := vword_lane (l := 3) hp hlen (by decide) (room 3 (by decide))
  obtain ⟨cong1, cong2⟩ := cong
  have same : target (vwordNext s) = target (consume s Config.width) := rfl
  rw [LanesCong, same, placed_target_consume_width placed full]
  constructor
  · refine Eq.trans (congrArg (· % Config.modulus) ?_) (Nat.ModEq.add_right _ cong1)
    refine (congrArg₂ (· + ·) (congrArg₂ (· + ·) (congrArg₂ (· + ·) x0 x1) x2) x3).trans ?_
    simp only [Lanes.get]
    ring
  · refine Eq.trans (congrArg (· % Config.modulus) ?_)
      (Nat.ModEq.add_right _ (Nat.ModEq.add cong2 (Nat.ModEq.mul_left 16 cong1)))
    refine (congrArg₂ (· + ·) (congrArg₂ (· + ·) (congrArg₂ (· + ·) y0 y1) y2) y3).trans ?_
    simp only [Lanes.get, Nat.reduceMul, Nat.reduceSub, Nat.reduceAdd]
    ring

end

/-- VWORD with another read left in the chunk goes on, else VFOLD follows. -/
theorem vwordNext_phase {s : State} (hp : s.cfg.wf = true) (hq : s.seq = .vword) (h : PhaseInv s) :
    PhaseFacts (successor .vword (vwordNext s)) (vwordNext s) := by
  rw [PhaseInv, hq] at h
  obtain ⟨placed, aligned, read_le, chunk_mul, chunk_rem, chunk_max, cong, rooms⟩ := h
  simp only [Config.width] at read_le chunk_mul
  obtain ⟨j, hj⟩ : ∃ j, s.chunk.toNat = 16 * (j + 1) := ⟨s.chunk.toNat / 16 - 1, by omega⟩
  have room := (lanesRoom_iff s).1 rooms
  rw [show s.chunk.toNat / Config.width = j + 1 by rw [hj]; exact Nat.mul_div_cancel_left _ (by decide)] at room
  have full : Config.width ≤ s.rem.toNat := Nat.le_trans read_le chunk_rem
  have placed' : Placed (vwordNext s) := placed_consume placed full
  have cong' := vwordNext_lanesCong hp room placed full cong
  have hrem : (vwordNext s).rem.toNat = s.rem.toNat - 16 := placed_consume_rem placed full
  have aligned' : Aligned (vwordNext s) := by
    refine (consume_ptr_mod_align s Config.width).trans ?_
    simp only [Aligned, Config.align, Config.width] at aligned ⊢
    omega
  have hchunk : (vwordNext s).chunk.toNat = 16 * j := by
    show (s.chunk - BitVec.ofNat 14 Config.width).toNat = 16 * j
    rw [BitVec.toNat_sub_of_le (by rw [BitVec.le_def]; exact read_le), hj]
    exact Nat.add_sub_cancel (16 * j) 16
  rw [successor]
  split
  · have rooms' := vwordNext_lanesRoom hp room (by rw [hchunk]; exact Nat.mul_div_cancel_left j (by decide))
    refine ⟨placed', aligned', ?_, ?_, ?_, ?_, cong', rooms'⟩
    · show 16 ≤ (vwordNext s).chunk.toNat
      omega
    · show (vwordNext s).chunk.toNat % 16 = 0
      omega
    · show (vwordNext s).chunk.toNat ≤ (vwordNext s).rem.toNat
      omega
    · show (vwordNext s).chunk.toNat ≤ s.cfg.vnmax
      omega
  · obtain ⟨-, rem_le, -, -⟩ := placed
    have nonempty : 0 < bufLen s := Nat.lt_of_lt_of_le (Nat.lt_of_lt_of_le (by decide) full) rem_le
    exact ⟨placed', aligned', nonempty, Nat.eq_zero_of_not_pos (by assumption), cong'⟩

/-! ### VFOLD and VEXIT -/

theorem foldLanes_folded (v : Lanes) : LanesFolded (foldLanes v) :=
  ⟨fold2_le _, fold2_le _, fold2_le _, fold2_le _⟩

/-- Folding keeps the class of the lanes' sum (42_modular_fold.md R191). -/
theorem foldLanes_cong (v : Lanes) :
    Cong ((foldLanes v).l0.toNat + (foldLanes v).l1.toNat + (foldLanes v).l2.toNat + (foldLanes v).l3.toNat)
      (v.l0.toNat + v.l1.toNat + v.l2.toNat + v.l3.toNat) :=
  ((Nat.ModEq.add (fold2_mod v.l0) (fold2_mod v.l1)).add (fold2_mod v.l2)).add (fold2_mod v.l3)

theorem foldBoth_lanesCong {s : State} (h : LanesCong s) : LanesCong (foldBoth s) := by
  obtain ⟨cong1, cong2⟩ := h
  exact ⟨(foldLanes_cong s.vs1).trans cong1, (foldLanes_cong s.vs2).trans cong2⟩

theorem vfold_phase_next_chunk {s : State} (hp : s.cfg.wf = true) (hq : s.seq = .vfold) (h : PhaseInv s)
    (full : Config.width ≤ s.rem.toNat) : PhaseFacts .vword (startChunk (foldBoth s)) := by
  rw [PhaseInv, hq] at h
  obtain ⟨placed, aligned, -, -, cong⟩ := h
  exact startChunk_phase (s := foldBoth s) hp placed aligned full (foldBoth_lanesCong cong) (foldLanes_folded _)
    (foldLanes_folded _)

theorem vfold_phase_exit {s : State} (hq : s.seq = .vfold) (h : PhaseInv s) (short : s.rem.toNat < Config.width) :
    PhaseFacts .vexit (foldBoth s) := by
  rw [PhaseInv, hq] at h
  obtain ⟨placed, aligned, nonempty, -, cong⟩ := h
  exact ⟨placed, aligned, short, nonempty, foldBoth_lanesCong cong, foldLanes_folded _, foldLanes_folded _⟩

/-- The sum of four folded lanes does not wrap and is at most 4 · X0 (41_vector_reduce.md R168). -/
theorem lanesFolded_sum {v : Lanes} (h : LanesFolded v) :
    v.sum.toNat = v.l0.toNat + v.l1.toNat + v.l2.toNat + v.l3.toNat ∧ v.sum.toNat ≤ 262980 := by
  obtain ⟨h0, h1, h2, h3⟩ := h
  have e : v.sum.toNat = v.l0.toNat + v.l1.toNat + v.l2.toNat + v.l3.toNat := by
    simp only [Lanes.sum, BitVec.toNat_add, Config.laneStart] at *
    omega
  refine ⟨e, ?_⟩
  simp only [Config.laneStart] at *
  omega

theorem vexit_phase {s : State} (hq : s.seq = .vexit) (h : PhaseInv s) :
    PhaseFacts (successor .vexit { s with s1 := s.vs1.sum, s2 := s.vs2.sum })
      { s with s1 := s.vs1.sum, s2 := s.vs2.sum } := by
  rw [PhaseInv, hq] at h
  obtain ⟨placed, -, short, nonempty, ⟨cong1, cong2⟩, folded1, folded2⟩ := h
  obtain ⟨e1, le1⟩ := lanesFolded_sum folded1
  obtain ⟨e2, le2⟩ := lanesFolded_sum folded2
  refine phaseFacts_tail_or_finalmod (s := { s with s1 := s.vs1.sum, s2 := s.vs2.sum }) placed short nonempty ⟨?_, ?_⟩
    (scalarRoom_of_le (Nat.le_of_lt_succ short) ?_ ?_)
  · exact (congrArg (· % Config.modulus) e1).trans cong1
  · exact (congrArg (· % Config.modulus) e2).trans cong2
  · show s.vs1.sum.toNat + 3825 ≤ 266805
    omega
  · show s.vs2.sum.toNat + 15 * s.vs1.sum.toNat + 30600 ≤ 4238280
    omega

/-! ### FINALMOD -/

theorem finalmod_phase {s : State} (hq : s.seq = .finalmod) (h : PhaseInv s) :
    PhaseFacts .pack { s with s1 := modM s.s1, s2 := modM s.s2 } := by
  rw [PhaseInv, hq] at h
  obtain ⟨placed, rem_zero, nonempty, ⟨cong1, cong2⟩⟩ := h
  have hall : streamTake s (consumed s) = stream s := by rw [consumed, rem_zero]; rfl
  have hne : stream s ≠ [] := fun hnil => by
    have := streamTake_length s (bufLen s)
    rw [show streamTake s (bufLen s) = [] from hnil] at this
    exact absurd this (Nat.ne_of_lt nonempty)
  have e1 : (modM s.s1).toNat = (rawSums s.adlerIn (stream s)).1 % Config.modulus := by
    rw [modM_toNat, cong1, target, hall]
  have e2 : (modM s.s2).toNat = (rawSums s.adlerIn (stream s)).2 % Config.modulus := by
    rw [modM_toNat, cong2, target, hall]
  have lt1 : (modM s.s1).toNat < Config.modulus := by rw [modM_toNat]; exact Nat.mod_lt _ (by decide)
  have lt2 : (modM s.s2).toNat < Config.modulus := by rw [modM_toNat]; exact Nat.mod_lt _ (by decide)
  have small : Config.modulus ≤ 65536 := by decide
  refine ⟨placed, rem_zero, ?_, Nat.lt_of_lt_of_le lt1 small, Nat.lt_of_lt_of_le lt2 small, fun _ => ⟨lt1, lt2⟩⟩
  show packSums (modM s.s1) (modM s.s2) = adler s.adlerIn (stream s)
  apply BitVec.eq_of_toNat_eq
  rw [packSums_toNat, adler_toNat _ hne, ← e1, ← e2, Nat.mod_eq_of_lt (Nat.lt_of_lt_of_le lt1 small),
    Nat.mod_eq_of_lt (Nat.lt_of_lt_of_le lt2 small)]

end Sys2Proof.Machine
end

section
/-! The engine invariant is kept by every step of every agent. -/

namespace Sys2Proof.Machine

/-! ### Instructions -/

/-- A micro-operation other than PACK writes the working state and seq alone, or takes a fault. -/
theorem exec_sameToHost {i : Instr} {s t : State} (hu : i ≠ .update) (hp : i ≠ .pack) (h : exec i s = .next t) :
    SameToHost s t ∨ ∃ r, t = recordFault s r := by
  cases i with
  | update => exact absurd rfl hu
  | pack => exact absurd rfl hp
  | unpack =>
    obtain ⟨-, -, -, ⟨-, rfl⟩ | ⟨-, rfl⟩⟩ := execUnpack_next h
    · exact Or.inr ⟨_, rfl⟩
    · exact Or.inl rfl
  | sbyte => obtain ⟨-, -, -, ⟨-, rfl⟩ | ⟨-, rfl⟩⟩ := execSbyte_next h <;> exact Or.inl rfl
  | finalmod => obtain ⟨-, -, -, rfl⟩ := execFinalmod_next h; exact Or.inl rfl
  | venter => obtain ⟨-, -, -, rfl⟩ := execVenter_next h; exact Or.inl rfl
  | vword => obtain ⟨-, -, -, ⟨-, rfl⟩ | ⟨-, rfl⟩⟩ := execVword_next h <;> exact Or.inl rfl
  | vfold => obtain ⟨-, -, -, ⟨-, rfl⟩ | ⟨-, rfl⟩⟩ := execVfold_next h <;> exact Or.inl rfl
  | vexit => obtain ⟨-, -, -, rfl⟩ := execVexit_next h; exact Or.inl rfl

/-- No micro-operation but PACK leads to IDLE (40_engine_update.md R124). -/
theorem successor_ne_idle {q : Seq} (hi : q ≠ .idle) (hp : q ≠ .pack) (s : State) : successor q s ≠ .idle := by
  cases q with
  | idle => exact absurd rfl hi
  | pack => exact absurd rfl hp
  | finalmod | venter => exact Seq.noConfusion
  | unpack | head | vword | vfold | vexit | tail => rw [successor]; split_ifs <;> exact Seq.noConfusion

/-- Writes of the working state alone keep the invariant where the successor's facts hold. -/
theorem engineInv_advance {s u : State} {q : Seq} (h : EngineInv s) (same : SameToHost s u) (hu : u.seq = s.seq)
    (hq : s.seq = q) (hi : q ≠ .idle) (hp : q ≠ .pack) (phase : PhaseFacts (successor q u) u) :
    EngineInv (advance u) := by
  obtain ⟨⟨busy_iff, busy_done⟩, doneInv, inputs, mark, -⟩ := h
  have running : s.busy = true := by
    rw [← Bool.not_eq_false]
    exact fun hb => hi (hq ▸ busy_iff.1 hb)
  have notIdle : (advance u).seq ≠ .idle := by
    rw [advance_seq, hu, hq]
    exact successor_ne_idle hi hp u
  rw [← hq, ← hu] at phase
  rw [same] at phase notIdle ⊢
  exact ⟨⟨iff_of_false (fun hb => Bool.noConfusion (running.symm.trans hb)) notIdle, busy_done⟩, doneInv, inputs, mark,
    phase⟩

/-- UPDATE refuses, takes a fault, or starts with every input written (40_engine_update.md R123). -/
theorem execUpdate_engineInv {s t : State} (h : EngineInv s) (run : execUpdate s = .next t) : EngineInv t := by
  obtain ⟨status, doneInv, inputs, mark, phase⟩ := h
  obtain ⟨-, rfl⟩ | ⟨-, -, rfl⟩ | ⟨-, -, o, -, rfl⟩ | ⟨-, -, ready, rfl⟩ := execUpdate_next run
  · exact ⟨status, doneInv, inputs, iff_of_true rfl (addReason_ne_nil _ _), phase⟩
  · exact ⟨status, doneInv, inputs, mark, phase⟩
  · exact ⟨status, doneInv, inputs, mark, phase⟩
  · exact ⟨⟨by simp, by simp⟩, fun hd => Bool.noConfusion hd, fun _ => ready, mark, trivial⟩

/-- PACK stores a value with its mark, ends the UPDATE and goes to IDLE; under ANY it counts a draw (40_engine_update.md
R128). -/
theorem execPack_eq {s t : State} (run : execPack s = .next t) :
    ∃ v d, t = { s with
      adlerOut := v, draws := d, written := { s.written with adlerOut := true }
      busy := false, done := true, seq := .idle } := by
  obtain ⟨-, -, hq, rfl⟩ := execPack_next run
  have stored : ∃ v d, packResult s =
      { s with adlerOut := v, draws := d, written := { s.written with adlerOut := true } } := by
    unfold packResult
    split <;> exact ⟨_, _, rfl⟩
  obtain ⟨v, d, stored⟩ := stored
  rw [stored, advance, setDone, show successor s.seq = successor .pack by rw [hq]]
  exact ⟨v, d, rfl⟩

theorem execPack_engineInv {s t : State} (h : EngineInv s) (run : execPack s = .next t) : EngineInv t := by
  obtain ⟨-, -, -, mark, -⟩ := h
  obtain ⟨v, d, rfl⟩ := execPack_eq run
  exact ⟨⟨iff_of_true rfl rfl, fun hb => Bool.noConfusion hb.1⟩, fun _ => rfl, fun hb => Bool.noConfusion hb, mark,
    trivial⟩

/-- Every instruction keeps the invariant: each micro-operation leaves its successor's facts. -/
theorem exec_engineInv {i : Instr} {s t : State} (h : EngineInv s) (run : exec i s = .next t) : EngineInv t := by
  have ⟨_, _, _, _, phase⟩ := h
  cases i with
  | update => exact execUpdate_engineInv h run
  | pack => exact execPack_engineInv h run
  | unpack =>
    obtain ⟨-, -, hq, ⟨-, rfl⟩ | ⟨hwrap, rfl⟩⟩ := execUnpack_next run
    · exact h
    · exact engineInv_advance h rfl rfl hq (by decide) (by decide) (unpackWrites_phase hwrap)
  | sbyte =>
    obtain ⟨-, -, hq, ⟨-, rfl⟩ | ⟨-, rfl⟩⟩ := execSbyte_next run
    · exact h
    · obtain hq | hq := hq
      · exact engineInv_advance h rfl rfl hq (by decide) (by decide) (sbyteWrites_phase_head hq phase)
      · exact engineInv_advance h rfl rfl hq (by decide) (by decide) (sbyteWrites_phase_tail hq phase)
  | finalmod =>
    obtain ⟨-, -, hq, rfl⟩ := execFinalmod_next run
    exact engineInv_advance h rfl rfl hq (by decide) (by decide) (finalmod_phase hq phase)
  | venter =>
    obtain ⟨-, hp, hq, rfl⟩ := execVenter_next run
    exact engineInv_advance h rfl rfl hq (by decide) (by decide) (venter_phase hp hq phase)
  | vword =>
    obtain ⟨-, hp, hq, ⟨-, rfl⟩ | ⟨-, rfl⟩⟩ := execVword_next run
    · exact h
    · exact engineInv_advance h rfl rfl hq (by decide) (by decide) (vwordNext_phase hp hq phase)
  | vfold =>
    obtain ⟨-, hp, hq, ⟨full, rfl⟩ | ⟨short, rfl⟩⟩ := execVfold_next run
    · refine engineInv_advance h rfl rfl hq (by decide) (by decide) ?_
      rw [successor, if_pos (show Config.width ≤ (startChunk (foldBoth s)).rem.toNat from full)]
      exact vfold_phase_next_chunk hp hq phase full
    · refine engineInv_advance h rfl rfl hq (by decide) (by decide) ?_
      rw [successor, if_neg (show ¬ Config.width ≤ (foldBoth s).rem.toNat from Nat.not_le_of_lt short)]
      exact vfold_phase_exit hq phase short
  | vexit =>
    obtain ⟨-, -, hq, rfl⟩ := execVexit_next run
    exact engineInv_advance h rfl rfl hq (by decide) (by decide) (vexit_phase hq phase)

/-! ### The other agents -/

/-- The invariant does not speak of the fault record, admission, the pending steps, the host's program, the replies or
the draw counter. -/
theorem engineInv_env {s : State} (h : EngineInv s) (faults : List FaultReason) (unreadable : List Region)
    (inputs : List Input) (program : List HostOp) (replies : List Reply) (draws : Nat) :
    EngineInv { s with
      faults := faults, unreadable := unreadable, inputs := inputs, program := program
      replies := replies, draws := draws } := h

theorem refuse_engineInv {s : State} (h : EngineInv s) (r : RefusalReason) : EngineInv (refuse s r) := by
  obtain ⟨status, doneInv, inputs, -, phase⟩ := h
  exact ⟨status, doneInv, inputs, iff_of_true rfl (addReason_ne_nil _ _), phase⟩

/-- A write of an input register while BUSY = 0 finds the engine at IDLE, where no phase asks for anything. -/
theorem writeInput_engineInv {s : State} (h : EngineInv s) (idle : s.busy = false) (r : Slot) (v : Word) :
    EngineInv (writeInput s r v) := by
  obtain ⟨status, doneInv, inputs, mark, phase⟩ := h
  have hq := status.1.1 idle
  have free : ∀ {t : State}, t.busy = s.busy → t.done = s.done → t.seq = s.seq →
      t.written.adlerOut = s.written.adlerOut → t.refusalMark = s.refusalMark → t.refusals = s.refusals → EngineInv t := by
    intro t hb hd hs hw hm hr
    refine ⟨?_, ?_, ?_, ?_, ?_⟩
    · rwa [StatusInv, hb, hd, hs]
    · rwa [DoneInv, hd, hw]
    · exact fun hbusy => Bool.noConfusion (hbusy.symm.trans (hb.trans idle))
    · rwa [MarkInv, hm, hr]
    · rw [PhaseInv, hs, hq]
      trivial
  cases r with
  | adlerIn | bufAddrLo | bufAddrHi | bufLenLo | bufLenHi => exact free rfl rfl rfl rfl rfl rfl
  | adlerOut | cmd | status => exact ⟨status, doneInv, inputs, mark, phase⟩

/-- The phase's facts depend on memory through the stream alone. -/
theorem phaseInv_mem {s : State} (h : PhaseInv s) {m : Memory}
    (bytes : ∀ i < bufLen s, memByte m (bufAddr s + i) = memByte s.mem (bufAddr s + i)) :
    PhaseInv { s with mem := m } := by
  have same : ∀ k ≤ bufLen s, streamTake { s with mem := m } k = streamTake s k :=
    fun k hk => streamTake_congr (t := { s with mem := m }) rfl (fun i hi => bytes i (Nat.lt_of_lt_of_le hi hk))
  have htarget : target { s with mem := m } = target s :=
    congrArg (rawSums s.adlerIn) (same (consumed s) (consumed_le s))
  have hstream : stream { s with mem := m } = stream s := same (bufLen s) (Nat.le_refl _)
  unfold PhaseInv at h ⊢
  simp only [SumsExact, SumsCong, LanesCong, htarget, hstream] at h ⊢
  exact h

/-- A write outside the running UPDATE's buffer keeps the invariant (20_memory.md R74). -/
theorem memPut_engineInv {s : State} (h : EngineInv s) {addr : Nat} (b : Byte)
    (apart : s.busy = false ∨ inBuffer s addr = false) : EngineInv { s with mem := memPut s.mem addr b } := by
  obtain ⟨status, doneInv, inputs, mark, phase⟩ := h
  refine ⟨status, doneInv, inputs, mark, ?_⟩
  obtain idle | outside := apart
  · rw [PhaseInv, show ({ s with mem := memPut s.mem addr b } : State).seq = .idle from status.1.1 idle]
    trivial
  · refine phaseInv_mem phase (fun i hi => memByte_memPut_other s.mem addr b ?_)
    simp only [inBuffer, Bool.and_eq_false_iff, decide_eq_false_iff_not] at outside
    omega

theorem resetBlock_engineInv (s : State) : EngineInv (resetBlock s) :=
  ⟨⟨iff_of_true rfl rfl, fun h => Bool.noConfusion h.1⟩, fun h => Bool.noConfusion h, fun h => Bool.noConfusion h,
    iff_of_false Bool.noConfusion (fun h => h rfl), trivial⟩

theorem AccessEffect.engineInv {s t : State} (h : EngineInv s) (effect : AccessEffect s t) : EngineInv t := by
  cases effect with
  | refused r => exact refuse_engineInv h r
  | faulted r => exact engineInv_env h _ _ _ _ _ _
  | stored r v idle => exact writeInput_engineInv h idle r v
  | replied o v => exact engineInv_env h _ _ _ _ _ _
  | drawn o _ => exact engineInv_env h _ _ _ _ _ _
  | command _ run => exact exec_engineInv h run

theorem LineEffect.engineInv {s t : State} (h : EngineInv s) (effect : LineEffect s t) : EngineInv t := by
  cases effect with
  | access u p d effect => exact engineInv_env (effect.engineInv h) _ _ _ _ _ _
  | writeRefused addr _ _ => exact refuse_engineInv h _
  | memory addr b apart => exact memPut_engineInv h b apart

theorem StepEffect.engineInv {s t : State} (h : EngineInv s) (effect : StepEffect s t) : EngineInv t := by
  cases effect with
  | waits _ => exact h
  | engine i _ _ _ _ run => exact exec_engineInv h run
  | access _ effect => exact effect.engineInv h
  | line _ effect => exact effect.engineInv (engineInv_env h _ _ _ _ _ _)
  | writeRefused addr _ _ => exact refuse_engineInv h _
  | memory addr b apart => exact memPut_engineInv h b apart
  | admission rs => exact engineInv_env h _ _ _ _ _ _
  | reset => exact resetBlock_engineInv s

/-- Settles O54, by the cases of what a step can do: each micro-operation leaves its successor's facts. -/
theorem stepKeepsEngineInvariant : Obligations.StepKeepsEngineInvariant := by
  unfold Obligations.StepKeepsEngineInvariant
  intro s t h run
  exact (step_next run).engineInv (engineInv_env h _ _ _ _ _ _)

/-- Settles O53: nothing runs at reset, and its memory is empty. -/
theorem resetMeetsEngineInvariant : Obligations.ResetMeetsEngineInvariant := by
  unfold Obligations.ResetMeetsEngineInvariant
  exact ⟨resetBlock_engineInv State.reset, reset_mem_wf⟩

end Sys2Proof.Machine
end

section
/-! What a step leaves alone: whose step it was, and the frames of the result, the status bits, the input registers and
the records over every instruction and every step. -/

namespace Sys2Proof.Machine

/-! ### Micro-operations are named by seq -/

theorem seqInstr_ne_update {q : Seq} {i : Instr} (h : seqInstr q = some i) : i ≠ .update := by
  rintro rfl
  cases q <;> cases h

theorem seqInstr_pack {q : Seq} (h : seqInstr q = some .pack) : q = .pack := by
  revert h
  cases q <;> simp [seqInstr]

/-- Settles O6: every meaning but UPDATE's is a micro-operation, which answers only when it is free to run. -/
theorem microOpRunsOnlyWhenNamed : Obligations.MicroOpRunsOnlyWhenNamed := by
  unfold Obligations.MicroOpRunsOnlyWhenNamed
  intro i s t hi h
  cases i with
  | update => exact absurd rfl hi
  | unpack | sbyte | finalmod | pack | venter | vword | vfold | vexit =>
    obtain ⟨noFault, allowed, named, -⟩ := microOp_next h
    exact ⟨named, noFault, allowed⟩

/-! ### Instructions -/

/-- UPDATE writes no register that holds a value, and no mark. -/
theorem execUpdate_registers {s t : State} (h : execUpdate s = .next t) :
    t.adlerIn = s.adlerIn ∧ t.bufAddrLo = s.bufAddrLo ∧ t.bufAddrHi = s.bufAddrHi ∧ t.bufLenLo = s.bufLenLo
      ∧ t.bufLenHi = s.bufLenHi ∧ t.adlerOut = s.adlerOut ∧ t.written = s.written := by
  obtain ⟨-, rfl⟩ | ⟨-, -, rfl⟩ | ⟨-, -, o, -, rfl⟩ | ⟨-, -, -, rfl⟩ := execUpdate_next h <;>
    exact ⟨rfl, rfl, rfl, rfl, rfl, rfl, rfl⟩

/-- Settles O23: a micro-operation but PACK writes working state or takes a fault, UPDATE writes no register, PACK
ADLER_OUT. -/
theorem instructionsKeepInputRegisters : Obligations.InstructionsKeepInputRegisters := by
  unfold Obligations.InstructionsKeepInputRegisters
  intro i s t h
  by_cases hu : i = .update
  · subst hu
    obtain ⟨e1, e2, e3, e4, e5, -, e6⟩ := execUpdate_registers h
    exact ⟨e1, e2, e3, e4, e5, by rw [e6]⟩
  by_cases hp : i = .pack
  · subst hp
    obtain ⟨v, d, rfl⟩ := execPack_eq h
    exact ⟨rfl, rfl, rfl, rfl, rfl, rfl⟩
  obtain same | ⟨r, rfl⟩ := exec_sameToHost hu hp h
  · rw [same]
    exact ⟨rfl, rfl, rfl, rfl, rfl, rfl⟩
  · exact ⟨rfl, rfl, rfl, rfl, rfl, rfl⟩

theorem exec_keeps_result {i : Instr} {s t : State} (hp : i ≠ .pack) (h : exec i s = .next t) :
    t.adlerOut = s.adlerOut ∧ t.written = s.written := by
  by_cases hu : i = .update
  · subst hu
    obtain ⟨-, -, -, -, -, hout, hmarks⟩ := execUpdate_registers h
    exact ⟨hout, hmarks⟩
  obtain same | ⟨r, rfl⟩ := exec_sameToHost hu hp h
  · rw [same]
    exact ⟨rfl, rfl⟩
  · exact ⟨rfl, rfl⟩

theorem exec_keeps_status {i : Instr} {s t : State} (hu : i ≠ .update) (hp : i ≠ .pack) (h : exec i s = .next t) :
    t.busy = s.busy ∧ t.done = s.done := by
  obtain same | ⟨r, rfl⟩ := exec_sameToHost hu hp h
  · rw [same]
    exact ⟨rfl, rfl⟩
  · exact ⟨rfl, rfl⟩

/-! ### Whose step it was -/

/-- The agent that made the step from s to t, with its turn; u is s less the step that was pending. -/
inductive StepBy (s u t : State) : Prop
  | engine (turn : EngineTurn s u) (run : engineTurn u = .next t)
  | host (turn : HostTurn s u) (run : hostTurn u = .next t)
  | access (a : Access) (pending : s.inputs.head? = some (.access a)) (run : hostAccess a u = .next t)
  | memWrite (addr : Nat) (b : Byte) (run : memoryWrite addr b u = .next t)
  | admission (rs : List Region) (run : t = { u with unreadable := rs })
  | reset (pending : s.inputs.head? = some .reset)

/-- Every step that answers is some agent's. -/
theorem step_by {s t : State} (h : step s = .next t) : StepBy s { s with inputs := s.inputs.tail } t := by
  cases hi : s.inputs with
  | nil =>
    have same : ({ s with inputs := ([] : List Input).tail } : State) = s := by rw [List.tail_nil, ← hi]
    rw [step_nil hi] at h
    rw [same]
    split at h
    · exact .host (Or.inl ⟨hi, by assumption, rfl⟩) h
    · exact .engine (Or.inl ⟨hi, by assumption, rfl⟩) h
  | cons x rest =>
    rw [step_cons hi] at h
    cases x with
    | engine => exact .engine (Or.inr ⟨rest, hi, rfl⟩) h
    | host => exact .host (Or.inr ⟨rest, hi, rfl⟩) h
    | access a => exact .access a (by rw [hi]; rfl) h
    | memWrite addr b => exact .memWrite addr b h
    | admission rs => cases h; exact .admission rs rfl
    | reset => exact .reset (by rw [hi]; rfl)

/-! ### The result -/

/-- ADLER_OUT and its mark are as before. -/
def KeepsResult (s t : State) : Prop :=
  t.adlerOut = s.adlerOut ∧ t.written.adlerOut = s.written.adlerOut

theorem AccessEffect.keepsResult {s t : State} (effect : AccessEffect s t) : KeepsResult s t := by
  cases effect with
  | refused | faulted | replied | drawn => exact ⟨rfl, rfl⟩
  | stored r => cases r <;> exact ⟨rfl, rfl⟩
  | command _ run =>
    obtain ⟨hout, hmarks⟩ := exec_keeps_result (by decide) run
    exact ⟨hout, congrArg Marks.adlerOut hmarks⟩

theorem LineEffect.keepsResult {s t : State} (effect : LineEffect s t) : KeepsResult s t := by
  cases effect with
  | access _ _ _ effect => exact effect.keepsResult
  | writeRefused | memory => exact ⟨rfl, rfl⟩

/-- Settles O24: no agent's step writes the result but the engine's at PACK, and a reset event. -/
theorem onlyPackWritesResult : Obligations.OnlyPackWritesResult := by
  unfold Obligations.OnlyPackWritesResult
  refine ⟨fun i s t hp h => exec_keeps_result hp h, fun s t h notReset notPack => ?_⟩
  show KeepsResult { s with inputs := s.inputs.tail } t
  cases step_by h with
  | engine turn run =>
    obtain ⟨i, noFault, -, named, he⟩ | ⟨-, he⟩ := engineTurn_cases { s with inputs := s.inputs.tail }
    · have hp : i ≠ .pack := by
        rintro rfl
        exact notPack _ turn (seqInstr_pack named) noFault
      obtain ⟨hout, hmarks⟩ := exec_keeps_result hp (he.symm.trans run)
      exact ⟨hout, congrArg Marks.adlerOut hmarks⟩
    · rw [he] at run
      cases run
      exact ⟨rfl, rfl⟩
  | host _ run =>
    obtain ⟨-, rfl⟩ | effect := hostTurn_next run
    · exact ⟨rfl, rfl⟩
    · exact effect.keepsResult
  | access a _ run => exact (hostAccess_next run).keepsResult
  | memWrite addr b run =>
    obtain ⟨-, ⟨-, -, rfl⟩ | ⟨-, rfl⟩⟩ := memoryWrite_next run <;> exact ⟨rfl, rfl⟩
  | admission rs run => rw [run]; exact ⟨rfl, rfl⟩
  | reset pending => exact absurd pending notReset

/-! ### The status bits -/

/-- BUSY and DONE are as before. -/
def KeepsStatus (s t : State) : Prop :=
  t.busy = s.busy ∧ t.done = s.done

theorem slotOffset_eq_cmd {r : Slot} (h : slotOffset r = 0x18) : r = .cmd := by
  revert h
  cases r <;> simp [slotOffset]

theorem slotAt_eq_some {p : Params} {o : Nat} {r : Slot} (h : slotAt p o = some r) : o = slotOffset r := by
  unfold slotAt at h
  split_ifs at h <;> cases h <;> assumption

theorem readMarked_keepsStatus {s t : State} {o : Nat} {m : Bool} {v : Word} (h : readMarked s o m v = .next t) :
    KeepsStatus s t := by
  unfold readMarked at h
  split at h <;> cases h <;> exact ⟨rfl, rfl⟩

theorem readSlot_keepsStatus {s t : State} {r : Slot} {o : Nat} (h : readSlot s r o = .next t) : KeepsStatus s t := by
  cases r with
  | adlerIn | bufAddrLo | bufAddrHi | bufLenLo | bufLenHi => exact readMarked_keepsStatus h
  | adlerOut =>
    rw [readSlot] at h
    split at h
    · cases h; exact ⟨rfl, rfl⟩
    · exact readMarked_keepsStatus h
  | status | cmd => cases h; exact ⟨rfl, rfl⟩

theorem writeInputReg_keepsStatus {s t : State} {r : Slot} {o : Nat} {v : Word} (h : writeInputReg s r o v = .next t) :
    KeepsStatus s t := by
  unfold writeInputReg at h
  split at h
  · cases h; exact ⟨rfl, rfl⟩
  · cases h; cases r <;> exact ⟨rfl, rfl⟩

/-- A register access but the write of 1 to CMD keeps the status bits: only UPDATE sets them. -/
theorem hostAccess_keepsStatus {a : Access} {s t : State} (h : hostAccess a s = .next t) (ha : a ≠ .write 32 0x18 1) :
    KeepsStatus s t := by
  unfold hostAccess at h
  split at h
  · cases h; exact ⟨rfl, rfl⟩
  rename_i hwf
  split at h
  · cases h; exact ⟨rfl, rfl⟩
  rename_i r hr
  cases a with
  | read w o => exact readSlot_keepsStatus h
  | write w o v =>
    cases r with
    | cmd =>
      simp only [writeSlot, decode_cmd] at h
      split at h
      · have hw : w = 32 := by simp_all [Access.wf, Access.width]
        have ho : o = 0x18 := slotAt_eq_some hr
        subst hw ho
        exact absurd (congrArg _ (by assumption)) ha
      · cases h; exact ⟨rfl, rfl⟩
    | adlerIn | bufAddrLo | bufAddrHi | bufLenLo | bufLenHi =>
      exact writeInputReg_keepsStatus h
    | adlerOut | status => cases h; exact ⟨rfl, rfl⟩

theorem memoryWrite_keepsStatus {addr : Nat} {b : Byte} {s t : State} (h : memoryWrite addr b s = .next t) :
    KeepsStatus s t := by
  obtain ⟨-, ⟨-, -, rfl⟩ | ⟨-, rfl⟩⟩ := memoryWrite_next h <;> exact ⟨rfl, rfl⟩

theorem hostLine_keepsStatus {op : HostOp} {s t : State} (h : hostLine op s = .next t) (hop : op ≠ .wr .cmd 1) :
    KeepsStatus s t := by
  cases op with
  | wr r v =>
    refine hostAccess_keepsStatus h (fun ha => hop ?_)
    injection ha with _ ho hv
    rw [hv, slotOffset_eq_cmd ho]
  | rd r => exact hostAccess_keepsStatus h nofun
  | waitDone =>
    rw [hostLine] at h
    obtain ⟨u, hu, rfl⟩ := andThen_next h
    obtain ⟨p, hp⟩ := afterPoll_eq s u
    have kept := hostAccess_keepsStatus hu nofun
    rw [hp]
    exact kept
  | chain =>
    rw [hostLine] at h
    obtain ⟨u, hu, rfl⟩ := andThen_next h
    obtain ⟨p, d, hp⟩ := afterResult_eq s u
    have kept := hostAccess_keepsStatus hu nofun
    rw [hp]
    exact kept
  | store addr b => exact memoryWrite_keepsStatus h

theorem hostTurn_keepsStatus {s t : State} (h : hostTurn s = .next t) (hl : ∀ rest, s.program ≠ .wr .cmd 1 :: rest) :
    KeepsStatus s t := by
  unfold hostTurn at h
  split at h
  · cases h
    exact ⟨rfl, rfl⟩
  · rename_i op rest line
    have kept := hostLine_keepsStatus h (fun hop => hl rest (hop ▸ line))
    exact kept

/-- Settles O25: no agent's step writes BUSY or DONE but the host's UPDATE, the engine's step at PACK and a reset
event. -/
theorem onlyUpdateAndPackWriteStatus : Obligations.OnlyUpdateAndPackWriteStatus := by
  unfold Obligations.OnlyUpdateAndPackWriteStatus
  refine ⟨fun i s t hu hp h => exec_keeps_status hu hp h, fun s t h notReset notCommand notLine notPack => ?_⟩
  show KeepsStatus { s with inputs := s.inputs.tail } t
  cases step_by h with
  | engine turn run =>
    obtain ⟨i, noFault, -, named, he⟩ | ⟨-, he⟩ := engineTurn_cases { s with inputs := s.inputs.tail }
    · have hp : i ≠ .pack := by
        rintro rfl
        exact notPack _ turn (seqInstr_pack named) noFault
      exact exec_keeps_status (seqInstr_ne_update named) hp (he.symm.trans run)
    · rw [he] at run
      cases run
      exact ⟨rfl, rfl⟩
  | host turn run => exact hostTurn_keepsStatus run (fun rest => notLine _ rest turn)
  | access a pending run => exact hostAccess_keepsStatus run (fun ha => notCommand (ha ▸ pending))
  | memWrite addr b run => exact memoryWrite_keepsStatus run
  | admission rs run => rw [run]; exact ⟨rfl, rfl⟩
  | reset pending => exact absurd pending notReset

/-! ### The records -/

/-- Every recorded fault, the refusal mark and every written mark that is set stays. -/
def KeepsRecords (s t : State) : Prop :=
  (∀ r, r ∈ s.faults → r ∈ t.faults) ∧ (s.refusalMark = true → t.refusalMark = true)
    ∧ (s.written.adlerIn = true → t.written.adlerIn = true)
    ∧ (s.written.bufAddrLo = true → t.written.bufAddrLo = true)
    ∧ (s.written.bufAddrHi = true → t.written.bufAddrHi = true)
    ∧ (s.written.bufLenLo = true → t.written.bufLenLo = true)
    ∧ (s.written.bufLenHi = true → t.written.bufLenHi = true)
    ∧ (s.written.adlerOut = true → t.written.adlerOut = true)

theorem KeepsRecords.refl (s : State) : KeepsRecords s s :=
  ⟨fun _ => id, id, id, id, id, id, id, id⟩

theorem refuse_keepsRecords (s : State) (r : RefusalReason) : KeepsRecords s (refuse s r) :=
  ⟨fun _ => id, fun _ => rfl, id, id, id, id, id, id⟩

theorem recordFault_keepsRecords (s : State) (r : FaultReason) : KeepsRecords s (recordFault s r) :=
  ⟨fun x hx => (mem_addReason s.faults r x).2 (Or.inl hx), id, id, id, id, id, id, id⟩

theorem writeInput_keepsRecords (s : State) (r : Slot) (v : Word) : KeepsRecords s (writeInput s r v) := by
  cases r with
  | adlerIn => exact ⟨fun _ => id, id, fun _ => rfl, id, id, id, id, id⟩
  | bufAddrLo => exact ⟨fun _ => id, id, id, fun _ => rfl, id, id, id, id⟩
  | bufAddrHi => exact ⟨fun _ => id, id, id, id, fun _ => rfl, id, id, id⟩
  | bufLenLo => exact ⟨fun _ => id, id, id, id, id, fun _ => rfl, id, id⟩
  | bufLenHi => exact ⟨fun _ => id, id, id, id, id, id, fun _ => rfl, id⟩
  | adlerOut | cmd | status => exact KeepsRecords.refl s

theorem exec_keepsRecords {i : Instr} {s t : State} (h : exec i s = .next t) : KeepsRecords s t := by
  by_cases hu : i = .update
  · subst hu
    obtain ⟨-, rfl⟩ | ⟨-, -, rfl⟩ | ⟨-, -, o, -, rfl⟩ | ⟨-, -, -, rfl⟩ := execUpdate_next h
    · exact refuse_keepsRecords s _
    · exact recordFault_keepsRecords s _
    · exact recordFault_keepsRecords s _
    · exact KeepsRecords.refl s
  by_cases hp : i = .pack
  · subst hp
    obtain ⟨v, d, rfl⟩ := execPack_eq h
    exact ⟨fun _ => id, id, id, id, id, id, id, fun _ => rfl⟩
  obtain same | ⟨r, rfl⟩ := exec_sameToHost hu hp h
  · rw [same]
    exact KeepsRecords.refl s
  · exact recordFault_keepsRecords s r

theorem AccessEffect.keepsRecords {s t : State} (effect : AccessEffect s t) : KeepsRecords s t := by
  cases effect with
  | refused r => exact refuse_keepsRecords s r
  | faulted r => exact recordFault_keepsRecords s r
  | stored r v => exact writeInput_keepsRecords s r v
  | replied | drawn => exact KeepsRecords.refl s
  | command _ run => exact exec_keepsRecords run

theorem LineEffect.keepsRecords {s t : State} (effect : LineEffect s t) : KeepsRecords s t := by
  cases effect with
  | access _ _ _ effect => exact effect.keepsRecords
  | writeRefused addr => exact refuse_keepsRecords s _
  | memory => exact KeepsRecords.refl s

/-- Settles O27: faults, refusals and written registers only add to the records. -/
theorem onlyResetClearsRecords : Obligations.OnlyResetClearsRecords := by
  unfold Obligations.OnlyResetClearsRecords
  intro s t h notReset
  show KeepsRecords { s with inputs := s.inputs.tail } t
  cases step_by h with
  | engine _ run =>
    obtain ⟨i, -, -, -, he⟩ | ⟨-, he⟩ := engineTurn_cases { s with inputs := s.inputs.tail }
    · exact exec_keepsRecords (he.symm.trans run)
    · rw [he] at run
      cases run
      exact KeepsRecords.refl s
  | host _ run =>
    obtain ⟨-, rfl⟩ | effect := hostTurn_next run
    · exact KeepsRecords.refl s
    · exact effect.keepsRecords
  | access a _ run => exact (hostAccess_next run).keepsRecords
  | memWrite addr b run =>
    obtain ⟨-, ⟨-, -, rfl⟩ | ⟨-, rfl⟩⟩ := memoryWrite_next run
    · exact refuse_keepsRecords _ _
    · exact KeepsRecords.refl s
  | admission rs run => rw [run]; exact KeepsRecords.refl s
  | reset pending => exact absurd pending notReset

end Sys2Proof.Machine
end

section
/-! A host access by its slot, the host's turn by its line, and that no access sees the working state. -/

namespace Sys2Proof.Machine

/-! ### Whose turn the next step is -/

theorem step_of_hostTurn {s u : State} (h : HostTurn s u) : step s = hostTurn u := by
  obtain ⟨hi, idle, rfl⟩ | ⟨rest, hi, rfl⟩ := h
  · rw [step_nil hi, if_pos idle]
  · exact step_cons hi

theorem hostTurn_nil {s : State} (h : s.program = []) : hostTurn s = .next s := by
  simp [hostTurn, h]

theorem hostTurn_cons {s : State} {op : HostOp} {rest : List HostOp} (h : s.program = op :: rest) :
    hostTurn s = hostLine op { s with program := rest } := by
  simp [hostTurn, h]

/-- What the engine has to do does not depend on the pending steps. -/
theorem issued_inputs (s : State) (ins : List Input) : issued { s with inputs := ins } = issued s := by
  have stuck : stuckAt { s with inputs := ins } = stuckAt s := stuckAt_congr rfl rfl rfl rfl rfl
  rw [issued, issued, stuck]

/-- Where the sequencer issues a code that decodes, the engine's turn runs the decoded instruction. -/
theorem engineTurn_of_issued {s : State} {c : Byte} {i : Instr} (hc : issued s = some c)
    (hd : decode (.uop c) = .instr i) :
    engineTurn s = exec i s := by
  simp [engineTurn, hc, hd, runDecoded]

/-! ### A register access by its slot -/

/-- A slot that the parameters put in use is found at its offset (10_state.md R30). -/
def SlotInUse (p : Params) (r : Slot) : Prop :=
  slotAt p (slotOffset r) = some r

theorem slotInUse_bufAddrHi {p : Params} (h : p.addrW = .w64) : SlotInUse p .bufAddrHi := by
  simp [SlotInUse, slotAt, slotOffset, h]

theorem slotInUse_bufLenHi {p : Params} (h : p.lenW = .w64) : SlotInUse p .bufLenHi := by
  simp [SlotInUse, slotAt, slotOffset, h]

theorem slotOffset_aligned (r : Slot) : slotOffset r % 4 = 0 := by
  cases r <;> rfl

/-- The slots lie in the window of 32 bytes (20_memory.md R71). -/
theorem slotOffset_lt (r : Slot) : slotOffset r < 0x20 := by
  cases r <;> decide

theorem hostAccess_write {s : State} {r : Slot} (h : SlotInUse s.cfg r) (v : Word) :
    hostAccess (.write 32 (slotOffset r) v) s = writeSlot s r (slotOffset r) v := by
  have hslot : slotAt s.cfg (Access.write 32 (slotOffset r) v).offset = some r := h
  have hwf : (Access.write 32 (slotOffset r) v).wf = true := by
    simp [Access.wf, Access.width, Access.offset, slotOffset_aligned]
  rw [hostAccess, if_neg (by rw [hwf]; decide), hslot]

theorem hostAccess_read {s : State} {r : Slot} (h : SlotInUse s.cfg r) :
    hostAccess (.read 32 (slotOffset r)) s = readSlot s r (slotOffset r) := by
  have hslot : slotAt s.cfg (Access.read 32 (slotOffset r)).offset = some r := h
  have hwf : (Access.read 32 (slotOffset r)).wf = true := by
    simp [Access.wf, Access.width, Access.offset, slotOffset_aligned]
  rw [hostAccess, if_neg (by rw [hwf]; decide), hslot]

theorem writeInputReg_idle {s : State} (h : s.busy = false) (r : Slot) (o : Nat) (v : Word) :
    writeInputReg s r o v = .next (writeInput s r v) := by
  simp [writeInputReg, h]

/-- Settles O3: a pending step is performed on the state it has left, and so is the host's next line. -/
theorem stepRunsDecodedCommand : Obligations.StepRunsDecodedCommand := by
  unfold Obligations.StepRunsDecodedCommand
  refine ⟨fun s rest w i hi hd => ?_, fun s a rest hi => step_cons hi, fun s addr b rest hi => step_cons hi,
    fun s rs rest hi => step_cons hi, fun s u turn => ?_⟩
  · rw [step_cons hi]
    refine (hostAccess_write (r := .cmd) rfl w).trans ?_
    rw [writeSlot, hd]
    rfl
  · rw [step_of_hostTurn turn]
    exact ⟨hostTurn_nil, fun r v rest line => hostTurn_cons line, fun r rest line => hostTurn_cons line,
      fun addr b rest line => hostTurn_cons line⟩

/-- Settles O4: with no fault recorded and the engine not stuck, seq's code is issued. -/
theorem stepRunsDecodedMicroOp : Obligations.StepRunsDecodedMicroOp := by
  unfold Obligations.StepRunsDecodedMicroOp
  intro s u c i turn noFault free named hd
  have hc : issued s = some c := by rw [issued, if_pos ⟨noFault, free⟩, named]
  obtain ⟨hi, rfl⟩ | ⟨rest, hi, rfl⟩ := turn
  · rw [step_nil hi, if_neg (by rw [hc]; exact Option.some_ne_none c), engineTurn_of_issued hc hd]
  · exact (step_cons hi).trans (engineTurn_of_issued ((issued_inputs s rest).trans hc) hd)

/-- Settles O5: the sequencer issues no code at IDLE, after a fault or while stuck. -/
theorem engineWaitsAtIdleOrAfterFault : Obligations.EngineWaitsAtIdleOrAfterFault := by
  unfold Obligations.EngineWaitsAtIdleOrAfterFault
  intro s waits
  have none_issued : issued s = none := (issued_eq_none s).2 waits
  refine ⟨fun rest hi => ?_, fun hi => ?_⟩
  · rw [step_cons hi]
    show engineTurn { s with inputs := rest } = _
    rw [engineTurn, issued_inputs, none_issued]
  · have host : step s = hostTurn s := by rw [step_nil hi, if_pos none_issued]
    exact ⟨host, fun hp => host.trans (hostTurn_nil hp)⟩

/-- Settles O28: the access's form is checked first, then its slot. -/
theorem reservedAndBadAccessesRefused : Obligations.ReservedAndBadAccessesRefused := by
  unfold Obligations.ReservedAndBadAccessesRefused
  intro s a
  refine ⟨fun bad => ?_, fun hw ho reserved => ?_⟩
  · have hwf : a.wf = false := by
      rw [Access.wf, Bool.and_eq_false_iff]
      simpa using bad
    rw [hostAccess, if_pos hwf]
    rfl
  · have hwf : a.wf = true := by simp [Access.wf, hw, ho]
    have hslot : slotAt s.cfg a.offset = none := by
      obtain ⟨h, narrow⟩ | ⟨h, narrow⟩ | h := reserved
      · simp [slotAt, h, narrow]
      · simp [slotAt, h, narrow]
      · cases hs : slotAt s.cfg a.offset with
        | none => rfl
        | some r => exact absurd (slotOffset_lt r) (by rw [← slotAt_eq_some hs]; omega)
    rw [hostAccess, if_neg (by rw [hwf]; decide), hslot]
    rfl

/-- Settles O29: STATUS and ADLER_OUT take no write and CMD no read, in any state. -/
theorem directionRefusals : Obligations.DirectionRefusals := by
  unfold Obligations.DirectionRefusals
  intro s v
  exact ⟨hostAccess_write (r := .status) rfl v, hostAccess_write (r := .adlerOut) rfl v,
    hostAccess_read (r := .cmd) rfl⟩

/-- Settles O31: with BUSY = 0 each write reaches its register. -/
theorem inputWriteStoresValue : Obligations.InputWriteStoresValue := by
  unfold Obligations.InputWriteStoresValue
  intro s v idle
  have stores : ∀ {r : Slot}, SlotInUse s.cfg r → writeSlot s r (slotOffset r) v = writeInputReg s r (slotOffset r) v →
      hostAccess (.write 32 (slotOffset r) v) s = .next (writeInput s r v) :=
    fun used isInput => (hostAccess_write used v).trans (isInput.trans (writeInputReg_idle idle _ _ v))
  exact ⟨stores (r := .adlerIn) rfl rfl, stores (r := .bufAddrLo) rfl rfl,
    fun wide => stores (slotInUse_bufAddrHi wide) rfl, stores (r := .bufLenLo) rfl rfl,
    fun wide => stores (slotInUse_bufLenHi wide) rfl⟩

/-- Settles O33: each input register in use is read by its mark. -/
theorem inputReadReturnsValueOrFaults : Obligations.InputReadReturnsValueOrFaults := by
  unfold Obligations.InputReadReturnsValueOrFaults
  intro s o m v reads
  obtain ⟨rfl, rfl, rfl⟩ | ⟨rfl, rfl, rfl⟩ | ⟨rfl, wide, rfl, rfl⟩ | ⟨rfl, rfl, rfl⟩ | ⟨rfl, wide, rfl, rfl⟩ := reads
  · exact hostAccess_read (r := .adlerIn) rfl
  · exact hostAccess_read (r := .bufAddrLo) rfl
  · exact hostAccess_read (slotInUse_bufAddrHi wide)
  · exact hostAccess_read (r := .bufLenLo) rfl
  · exact hostAccess_read (slotInUse_bufLenHi wide)

/-- Settles O37: every field of the reset state is a literal, and no mark is set. -/
theorem resetValues : Obligations.ResetValues := by
  unfold Obligations.ResetValues
  refine ⟨rfl, rfl, rfl, rfl, rfl, rfl, rfl, ?_⟩
  rintro o (rfl | rfl | rfl | rfl)
  · exact hostAccess_read (r := .adlerIn) rfl
  · exact hostAccess_read (r := .adlerOut) rfl
  · exact hostAccess_read (r := .bufAddrLo) rfl
  · exact hostAccess_read (r := .bufLenLo) rfl

theorem append_words_toNat (hi lo : Word) : (hi ++ lo).toNat = hi.toNat * 2 ^ 32 + lo.toNat := by
  rw [BitVec.toNat_append, Nat.shiftLeft_eq, Nat.mul_comm, ← Nat.two_pow_add_eq_or_of_lt lo.isLt]

/-- Settles O39, by the two widths of each operand. -/
theorem bufferOperandsFromRegisters : Obligations.BufferOperandsFromRegisters := by
  unfold Obligations.BufferOperandsFromRegisters
  intro s
  refine ⟨fun h => ?_, fun h => ?_, fun h => ?_, fun h => ?_⟩
  · simp only [bufAddr, h]
  · simp only [bufAddr, h, append_words_toNat]
  · simp only [bufLen, h]
  · simp only [bufLen, h, append_words_toNat]

/-! ### WAITDONE and CHAIN -/

theorem statusWord_eq (s : State) :
    statusWord s = BitVec.ofNat 32 ((if s.busy = true then 1 else 0) + (if s.done = true then 2 else 0)) := by
  unfold statusWord
  cases s.busy <;> cases s.done <;> rfl

theorem statusWord_done (s : State) : (statusWord s).getLsbD 1 = s.done := by
  unfold statusWord
  cases s.busy <;> cases s.done <;> rfl

theorem hostAccess_read_status (s : State) :
    hostAccess (.read 32 (slotOffset .status)) s = .next (reply s 0x1C (statusWord s)) :=
  hostAccess_read rfl

theorem hostAccess_read_result (s : State) :
    hostAccess (.read 32 (slotOffset .adlerOut)) s =
      if s.busy = true then .next (reply (countDraw s) 0x04 (nextDraw s))
      else if s.written.adlerOut = true then .next (reply s 0x04 s.adlerOut)
      else .next (recordFault s (.unwrittenRead 0x04)) :=
  hostAccess_read rfl

/-- A poll stays the host's next line until it reads DONE = 1 (30_encoding.md R100). -/
theorem hostLine_waitDone (s : State) :
    hostLine .waitDone s = .next { reply s 0x1C (statusWord s) with
      program := if s.done = true then s.program else .waitDone :: s.program } := by
  rw [hostLine, hostAccess_read_status, andThen, afterPoll, readValue_reply, readsDone]
  show Host.Outcome.next (if (statusWord s).getLsbD 1 = true then _ else _) = _
  rw [statusWord_done]
  split <;> rfl

/-- Settles O30: STATUS packs the two bits, and the poll's line leaves the program with bit 1 read. -/
theorem statusReadReturnsBusyAndDone : Obligations.StatusReadReturnsBusyAndDone := by
  unfold Obligations.StatusReadReturnsBusyAndDone
  intro r
  refine ⟨fun s => ?_, fun s u rest turn line => ?_⟩
  · rw [show r s = s.replies ++ [⟨0x1C, statusWord s⟩] by rw [statusWord_eq]]
    exact hostAccess_read_status s
  · rw [step_of_hostTurn turn, hostTurn_cons line, hostLine_waitDone,
      show r s = s.replies ++ [⟨0x1C, statusWord s⟩] by rw [statusWord_eq]]
    obtain ⟨-, -, rfl⟩ | ⟨_, -, rfl⟩ := turn <;> rfl

/-- After CHAIN's read its second access, the write of the value read, is the next line (30_encoding.md R100). -/
theorem hostLine_chain (s : State) :
    hostLine .chain s =
      if s.busy = true then .next { reply (countDraw s) 0x04 (nextDraw s) with
        program := .wr .adlerIn (nextDraw s) :: s.program }
      else if s.written.adlerOut = true then .next { reply s 0x04 s.adlerOut with
        program := .wr .adlerIn s.adlerOut :: s.program }
      else .next { countDraw (recordFault s (.unwrittenRead 0x04)) with
        program := .wr .adlerIn (nextDraw s) :: s.program } := by
  rw [hostLine, hostAccess_read_result]
  split_ifs
  · rw [andThen, afterResult, readValue_reply_countDraw]; rfl
  · rw [andThen, afterResult, readValue_reply]; rfl
  · rw [andThen, afterResult, readValue_recordFault]; rfl

/-- Settles O34: a draw while BUSY, else the marked result or a fault; CHAIN's write follows with the value read. -/
theorem resultReadOutcome : Obligations.ResultReadOutcome := by
  unfold Obligations.ResultReadOutcome
  refine ⟨hostAccess_read_result, fun s u rest turn line => ?_⟩
  rw [step_of_hostTurn turn, hostTurn_cons line, hostLine_chain]
  obtain ⟨-, -, rfl⟩ | ⟨_, -, rfl⟩ := turn <;> rfl

/-! ### The working state is hidden -/

/-- Where one outcome is a next state, the other is one that the host cannot tell from it. -/
def SameOutcome (o p : Out) : Prop :=
  ∀ t, o = .next t → ∃ v, p = .next v ∧ SameToHost t v

theorem SameOutcome.next {s t : State} (h : SameToHost s t) : SameOutcome (.next s) (.next t) := by
  intro u hu
  cases hu
  exact ⟨t, rfl, h⟩

theorem SameOutcome.ite {c : Prop} [Decidable c] {o o' p p' : Out} (ho : SameOutcome o p) (ho' : SameOutcome o' p') :
    SameOutcome (if c then o else o') (if c then p else p') := by
  split
  · exact ho
  · exact ho'

section
variable {s u : State} (h : SameToHost s u)
include h

theorem readMarked_same (o : Nat) (m : Bool) (v : Word) : SameOutcome (readMarked s o m v) (readMarked u o m v) := by
  rw [h]
  exact .ite (.next rfl) (.next rfl)

theorem writeInputReg_same (r : Slot) (o : Nat) (v : Word) :
    SameOutcome (writeInputReg s r o v) (writeInputReg u r o v) := by
  rw [h]
  exact .ite (.next rfl) (.next (by cases r <;> rfl))

theorem readSlot_same (r : Slot) (o : Nat) : SameOutcome (readSlot s r o) (readSlot u r o) := by
  have marked := readMarked_same h o
  rw [h] at marked ⊢
  cases r with
  | adlerIn | bufAddrLo | bufAddrHi | bufLenLo | bufLenHi => exact marked _ _
  | adlerOut => exact .ite (.next rfl) (marked _ _)
  | status | cmd => exact .next rfl

/-- UPDATE decides by registers and marks, and starts from either state at UNPACK. -/
theorem execUpdate_same : SameOutcome (execUpdate s) (execUpdate u) := by
  have hcfg : u.cfg = s.cfg := by rw [h]
  have hbusy : u.busy = s.busy := by rw [h]
  have hfirst : firstUnwritten u = firstUnwritten s := by rw [h]; rfl
  rw [execUpdate, execUpdate, hcfg, hbusy, hfirst, h]
  refine .ite (.next rfl) (.ite (.next rfl) ?_)
  cases firstUnwritten s with
  | some o => exact .next rfl
  | none => exact .next rfl

theorem writeSlot_same (r : Slot) (o : Nat) (v : Word) : SameOutcome (writeSlot s r o v) (writeSlot u r o v) := by
  cases r with
  | adlerIn | bufAddrLo | bufAddrHi | bufLenLo | bufLenHi => exact writeInputReg_same h _ o v
  | adlerOut | status => rw [h]; exact .next rfl
  | cmd =>
    rw [writeSlot, writeSlot, decode_cmd]
    split
    · exact execUpdate_same h
    · rw [h]; exact .next rfl

theorem hostAccess_same (a : Access) : SameOutcome (hostAccess a s) (hostAccess a u) := by
  have hcfg : u.cfg = s.cfg := by rw [h]
  rw [hostAccess, hostAccess, hcfg]
  refine .ite (by rw [h]; exact .next rfl) ?_
  cases slotAt s.cfg a.offset with
  | none => rw [h]; exact .next rfl
  | some r =>
    cases a with
    | write w o v => exact writeSlot_same h r o v
    | read w o => exact readSlot_same h r o

end

/-- Settles O35: every check and every value of an access is of what the host sees. -/
theorem hostCannotSeeWorkingState : Obligations.HostCannotSeeWorkingState := by
  unfold Obligations.HostCannotSeeWorkingState
  intro a s u t same run
  exact hostAccess_same same a t run

end Sys2Proof.Machine
end

section
/-! The buffer's rules over the machine's operations: no instruction writes memory, a write meets the running UPDATE's
buffer or stores, VEC_PACK does not show in a vector read's sums, the engine reads inside the buffer, and a read that is
not admitted holds the engine up. -/

namespace Sys2Proof.Machine

/-! ### No instruction writes memory -/

/-- Memory is no field that an instruction writes (20_memory.md R61). -/
theorem exec_mem {i : Instr} {s t : State} (h : exec i s = .next t) : t.mem = s.mem := by
  by_cases hu : i = .update
  · subst hu
    obtain ⟨-, rfl⟩ | ⟨-, -, rfl⟩ | ⟨-, -, o, -, rfl⟩ | ⟨-, -, -, rfl⟩ := execUpdate_next h <;> rfl
  by_cases hp : i = .pack
  · subst hp
    obtain ⟨v, d, rfl⟩ := execPack_eq h
    rfl
  obtain same | ⟨r, rfl⟩ := exec_sameToHost hu hp h
  · rw [same]
  · rfl

/-- Settles O22: UPDATE, PACK and the other micro-operations each write fields other than memory. -/
theorem instructionsNeverWriteMemory : Obligations.InstructionsNeverWriteMemory := by
  unfold Obligations.InstructionsNeverWriteMemory
  intro i s t h a
  rw [exec_mem h]

/-! ### A write of a byte of memory -/

theorem inBuffer_iff (s : State) (addr : Nat) :
    inBuffer s addr = true ↔ bufAddr s ≤ addr ∧ addr < bufAddr s + bufLen s := by
  rw [inBuffer, Bool.and_eq_true, decide_eq_true_iff, decide_eq_true_iff]

theorem memoryWrite_outside {s : State} {addr : Nat} (b : Byte) (out : addrSpace s ≤ addr) :
    memoryWrite addr b s = .fault (.noSuchAddress addr) :=
  if_pos out

theorem memoryWrite_protected {s : State} {addr : Nat} (b : Byte) (inside : addr < addrSpace s) (busy : s.busy = true)
    (buffer : inBuffer s addr = true) : memoryWrite addr b s = .next (refuse s (.bufWriteWhileBusy addr)) := by
  rw [memoryWrite, if_neg (Nat.not_le.2 inside), if_pos (by rw [busy, buffer]; rfl)]

theorem memoryWrite_stores {s : State} {addr : Nat} (b : Byte) (inside : addr < addrSpace s)
    (free : ¬(s.busy = true ∧ inBuffer s addr = true)) :
    memoryWrite addr b s = .next { s with mem := memPut s.mem addr b } := by
  rw [memoryWrite, if_neg (Nat.not_le.2 inside), if_neg (by rwa [Bool.and_eq_true])]

/-- Settles O36: a write stops above the address space, is refused in the running UPDATE's buffer, and else puts its
byte in memory, which stays canonical. -/
theorem bufferWriteWhileBusyRefused : Obligations.BufferWriteWhileBusyRefused := by
  unfold Obligations.BufferWriteWhileBusyRefused
  intro s addr b
  rw [← inBuffer_iff]
  refine ⟨memoryWrite_outside b, fun inside ⟨busy, buffer⟩ => memoryWrite_protected b inside busy buffer, ?_⟩
  intro canonical inside free
  exact ⟨_, memoryWrite_stores b inside free, rfl, memPut_wf canonical addr b, memByte_memPut canonical addr b⟩

/-! ### A read that is not admitted -/

/-- The engine is stuck exactly where a byte of its next read is not admitted (20_memory.md R70). -/
theorem stuckAt_ne_none (s : State) :
    stuckAt s ≠ none ↔ ∃ k < readWidth s.seq, admitted s (s.ptr.toNat + k) = false := by
  rw [Ne, stuckAt_eq_none]
  push Not
  simp only [Bool.not_eq_true]

theorem stuckAt_eq_ptr {s : State} (h : stuckAt s ≠ none) : stuckAt s = some s.ptr := by
  obtain ⟨p, hp⟩ := Option.ne_none_iff_exists'.1 h
  rw [hp, stuckAt_eq_some hp]

/-- An engine that is stuck is at one of the three phases that read. -/
theorem stuckAt_phase {s : State} (h : stuckAt s ≠ none) :
    (s.seq = .head ∨ s.seq = .tail) ∧ readWidth s.seq = 1 ∨ s.seq = .vword ∧ readWidth s.seq = 16 := by
  obtain ⟨k, hk, -⟩ := (stuckAt_ne_none s).1 h
  cases hq : s.seq with
  | head => exact Or.inl ⟨Or.inl rfl, rfl⟩
  | tail => exact Or.inl ⟨Or.inr rfl, rfl⟩
  | vword => exact Or.inr ⟨rfl, rfl⟩
  | idle | unpack | venter | vfold | vexit | finalmod | pack =>
    rw [hq] at hk
    exact absurd hk (Nat.not_lt_zero k)

/-- SBYTE waits on a byte that is not admitted (60_exceptions.md R212 S1). -/
theorem execSbyte_stuck {s : State} (noFault : s.faults = []) (allowed : s.cfg.wf = true)
    (hq : s.seq = .head ∨ s.seq = .tail) (blocked : admitted s s.ptr.toNat = false) : execSbyte s = .next s := by
  have named : seqInstr s.seq = some .sbyte := by obtain hq | hq := hq <;> rw [hq] <;> rfl
  rw [execSbyte, microOp_run _ noFault allowed named, memRead_head, blocked]
  rfl

section
variable {s : State} (noFault : s.faults = []) (allowed : s.cfg.wf = true) (hq : s.seq = .vword)
include noFault allowed hq

/-- VWORD waits while a byte of its read is not admitted (60_exceptions.md R212 S1). -/
theorem execVword_stuck (stuck : stuckAt s ≠ none) : execVword s = .next s := by
  rw [stuckAt_ne_none, hq] at stuck
  rw [execVword, microOp_run _ noFault allowed (by rw [hq]; rfl), (memRead_eq_none s _ Config.width).2 stuck]

/-- VWORD on sixteen admitted bytes. -/
theorem execVword_admitted (read : ∀ k < Config.width, admitted s (s.ptr.toNat + k) = true) :
    execVword s = .next (advance (vwordWrites s (packVec s.cfg.vecPack (readBytes s)))) := by
  rw [execVword, microOp_run _ noFault allowed (by rw [hq]; rfl),
    (memRead_eq_some s _ Config.width (readBytes s)).2 ⟨read, rfl⟩]

end

/-- Settles O14: the engine is stuck exactly where a byte of its read is not admitted, and SBYTE and VWORD, the two that
read, then wait. -/
theorem unreadableBufferIsStuck : Obligations.UnreadableBufferIsStuck := by
  unfold Obligations.UnreadableBufferIsStuck
  refine ⟨?_, ?_, ?_⟩
  · intro s noFault allowed hq blocked
    have width : 0 < readWidth s.seq := by obtain hq | hq := hq <;> rw [hq] <;> exact Nat.one_pos
    exact ⟨stuckAt_eq_ptr ((stuckAt_ne_none s).2 ⟨0, width, blocked⟩), execSbyte_stuck noFault allowed hq blocked⟩
  · intro s k noFault allowed hq hk blocked
    have stuck := (stuckAt_ne_none s).2 ⟨k, by rwa [hq], blocked⟩
    exact ⟨stuckAt_eq_ptr stuck, execVword_stuck noFault allowed hq stuck⟩
  · intro s stuck
    obtain ⟨k, hk, blocked⟩ := (stuckAt_ne_none s).1 stuck
    obtain ⟨hq, width⟩ | ⟨hq, width⟩ := stuckAt_phase stuck
    · rw [width, Nat.lt_one_iff] at hk
      subst hk
      exact Or.inl ⟨hq, blocked⟩
    · exact Or.inr ⟨hq, k, width ▸ hk, blocked⟩

/-! ### The packing of a vector read -/

/-- The state under another VEC_PACK. -/
def withPack (p : VecPack) (s : State) : State :=
  { s with cfg := { s.cfg with vecPack := p } }

/-- HSUM is of the bytes read, however they are packed (20_memory.md R63). -/
theorem hsum_packVec_eq (p q : VecPack) {bs : List Byte} {l : Nat} (hlen : bs.length = Config.width) (hl : l < 4) :
    hsum p (packVec p bs) l = hsum q (packVec q bs) l :=
  BitVec.eq_of_toNat_eq ((hsum_packVec_toNat p hlen hl).trans (hsum_packVec_toNat q hlen hl).symm)

/-- WSUM weighs the bytes by their place in the stream, however they are packed (20_memory.md R63). -/
theorem wsum_packVec_eq (p q : VecPack) {bs : List Byte} {l : Nat} (hlen : bs.length = Config.width) (hl : l < 4) :
    wsum p (packVec p bs) l = wsum q (packVec q bs) l :=
  BitVec.eq_of_toNat_eq ((wsum_packVec_toNat p hlen hl).trans (wsum_packVec_toNat q hlen hl).symm)

theorem lanesOf_congr {f g : Nat → Word} (h : ∀ l < 4, f l = g l) : lanesOf f = lanesOf g := by
  rw [lanesOf, lanesOf, h 0 (by decide), h 1 (by decide), h 2 (by decide), h 3 (by decide)]

/-- VWORD writes the same lanes under another packing, and no other write depends on it. -/
theorem vwordWrites_withPack (s : State) (p : VecPack) {bs : List Byte} (hlen : bs.length = Config.width) :
    vwordWrites (withPack p s) (packVec p bs) = withPack p (vwordWrites s (packVec s.cfg.vecPack bs)) := by
  have unweighted : unweightedLanes (withPack p s) (packVec p bs) = unweightedLanes s (packVec s.cfg.vecPack bs) :=
    lanesOf_congr fun l hl => congrArg (s.vs1.get l + ·) (hsum_packVec_eq p s.cfg.vecPack hlen hl)
  have weighted : weightedLanes (withPack p s) (packVec p bs) = weightedLanes s (packVec s.cfg.vecPack bs) :=
    lanesOf_congr fun l hl =>
      congrArg (s.vs2.get l + BitVec.ofNat 32 Config.width * s.vs1.get l + ·) (wsum_packVec_eq p s.cfg.vecPack hlen hl)
  rw [vwordWrites, unweighted, weighted]
  rfl

theorem advance_withPack (p : VecPack) (s : State) : advance (withPack p s) = withPack p (advance s) := rfl

/-- Settles O43: whether VWORD waits does not depend on VEC_PACK, and what it writes does not either. -/
theorem vwordIgnoresPacking : Obligations.VwordIgnoresPacking := by
  unfold Obligations.VwordIgnoresPacking
  intro s t p h
  show execVword (withPack p s) = .next (withPack p t)
  obtain ⟨noFault, allowed, hq, ⟨stuck, rfl⟩ | ⟨read, rfl⟩⟩ := execVword_next h
  · have same : stuckAt (withPack p t) = stuckAt t := stuckAt_congr rfl rfl rfl rfl rfl
    exact execVword_stuck noFault allowed hq (same ▸ stuck)
  · rw [execVword_admitted (s := withPack p s) noFault allowed hq read]
    have writes := vwordWrites_withPack s p (readBytes_length s)
    exact congrArg Host.Outcome.next ((congrArg advance writes).trans (advance_withPack p _))

/-! ### The engine reads inside the buffer -/

/-- A read of n of the bytes left stays in the buffer (20_memory.md R69). -/
theorem placed_read_inside {s : State} (h : Placed s) {n : Nat} (pos : 0 < n) (hn : n ≤ s.rem.toNat) :
    bufAddr s ≤ s.ptr.toNat ∧ s.ptr.toNat + n ≤ bufAddr s + bufLen s := by
  have hptr := placed_ptr_eq h (by omega)
  obtain ⟨-, hrem, -, -⟩ := h
  rw [consumed] at hptr
  omega

/-- Settles O56: at HEAD, TAIL and VWORD the phase's facts leave at least as many bytes as are read. -/
theorem engineReadsInsideBuffer : Obligations.EngineReadsInsideBuffer := by
  unfold Obligations.EngineReadsInsideBuffer
  rintro s ⟨-, -, -, -, phase⟩
  refine ⟨?_, ?_⟩
  · rintro (hq | hq) <;> rw [PhaseInv, hq] at phase
    · obtain ⟨placed, head_pos, -, head_le, -⟩ := phase
      exact placed_read_inside placed Nat.one_pos (Nat.le_trans head_pos head_le)
    · obtain ⟨placed, rem_pos, -⟩ := phase
      exact placed_read_inside placed Nat.one_pos rem_pos
  · intro hq
    rw [PhaseInv, hq] at phase
    obtain ⟨placed, aligned, full, -, chunk_le, -⟩ := phase
    obtain ⟨low, high⟩ := placed_read_inside placed (by decide) (Nat.le_trans full chunk_le)
    exact ⟨low, high, aligned⟩

end Sys2Proof.Machine
end

section
/-! The encoding: a row of the opcode table covers exactly the code of its instruction, and a code whose fields
are well formed is the code of an instruction; and the outcome of a reserved command word. -/

namespace Sys2Proof.Machine

/-! ### Codes by their table rows -/

/-- A row whose mask holds every bit covers its pattern alone. -/
theorem covers_iff_eq_pattern {n : Nat} {r : OpcodeRow n} (full : r.mask = BitVec.allOnes n) (w : BitVec n) :
    r.covers w = true ↔ w = r.pattern := by
  rw [OpcodeRow.covers, full, BitVec.and_allOnes, beq_iff_eq]

/-- An instruction looked up stands in a row that covers the code. -/
theorem lookupRow_eq_some {n : Nat} {table : List (OpcodeRow n)} {w : BitVec n} {i : Instr}
    (h : lookupRow table w = some i) : ∃ r ∈ table, r.covers w = true ∧ r.instr = i := by
  obtain ⟨r, found, hi⟩ := Option.map_eq_some_iff.1 h
  exact ⟨r, List.mem_of_find?_eq_some found, List.find?_some (p := (OpcodeRow.covers · w)) found, hi⟩

/-- Every row of format UOP holds the whole code of its instruction (30_encoding.md R95). -/
theorem uopTable_holds_encode :
    ∀ r ∈ uopTable, r.mask = BitVec.allOnes 8 ∧ Code.uop r.pattern = encode r.instr := by
  decide

/-! ### Decoding undoes encoding, and accepts nothing else -/

theorem decode_encode (i : Instr) : decode (encode i) = .instr i := by
  cases i <;> rfl

theorem eq_encode_of_decode_cmd {w : Word} {i : Instr} (h : decode (.cmd w) = .instr i) : .cmd w = encode i := by
  rw [decode_cmd] at h
  split at h
  · rename_i update
    cases h
    exact congrArg Code.cmd update
  · cases h

theorem eq_encode_of_decode_uop {c : Byte} {i : Instr} (h : decode (.uop c) = .instr i) : .uop c = encode i := by
  rw [decode] at h
  split at h
  · rename_i found
    cases h
    obtain ⟨r, row, covered, rfl⟩ := lookupRow_eq_some found
    obtain ⟨full, code⟩ := uopTable_holds_encode r row
    rw [(covers_iff_eq_pattern full c).1 covered, code]
  · cases h

theorem decode_eq_instr_iff (c : Code) (i : Instr) : decode c = .instr i ↔ c = encode i := by
  constructor
  · intro h
    cases c with
    | cmd w => exact eq_encode_of_decode_cmd h
    | uop c => exact eq_encode_of_decode_uop h
  · rintro rfl
    exact decode_encode i

/-! ### Codes by their fields -/

/-- A command word is its fields RSVD and OP (30_encoding.md R91). -/
theorem cmdWord_fields (w : Word) : cmdWord (w.extractLsb' 8 24) (w.extractLsb' 0 8) = .cmd w := by
  have joined : w.extractLsb' 8 24 ++ w.extractLsb' 0 8 = w.extractLsb' 0 32 :=
    BitVec.extractLsb'_append_extractLsb'_eq_extractLsb' rfl
  rw [cmdWord, joined, BitVec.extractLsb'_eq_self]

/-- A micro-operation code is its fields FAM and FN (30_encoding.md R94). -/
theorem uopCode_fields (c : Byte) : uopCode (c.extractLsb' 4 4) (c.extractLsb' 0 4) = .uop c := by
  have joined : c.extractLsb' 4 4 ++ c.extractLsb' 0 4 = c.extractLsb' 0 8 :=
    BitVec.extractLsb'_append_extractLsb'_eq_extractLsb' rfl
  rw [uopCode, joined, BitVec.extractLsb'_eq_self]

/-- The field FN has four values up to 3. -/
theorem fn_cases {fn : BitVec 4} (h : fn ≤ 3) : fn = 0 ∨ fn = 1 ∨ fn = 2 ∨ fn = 3 := by
  revert fn
  decide

/-- Each family has an instruction for every FN up to 3 (30_encoding.md R95). -/
theorem exists_encode_of_fields {fam fn : BitVec 4} (hfam : fam = 1 ∨ fam = 2) (hfn : fn ≤ 3) :
    ∃ i, uopCode fam fn = encode i := by
  obtain rfl | rfl := hfam
  · obtain rfl | rfl | rfl | rfl := fn_cases hfn
    · exact ⟨.unpack, rfl⟩
    · exact ⟨.sbyte, rfl⟩
    · exact ⟨.finalmod, rfl⟩
    · exact ⟨.pack, rfl⟩
  · obtain rfl | rfl | rfl | rfl := fn_cases hfn
    · exact ⟨.venter, rfl⟩
    · exact ⟨.vword, rfl⟩
    · exact ⟨.vfold, rfl⟩
    · exact ⟨.vexit, rfl⟩

theorem encode_wf : ∀ i : Instr, (encode i).wf = true
  | .update => Laws.CodeFields.update
  | .unpack => Laws.CodeFields.unpack
  | .sbyte => Laws.CodeFields.sbyte
  | .finalmod => Laws.CodeFields.finalmod
  | .pack => Laws.CodeFields.pack
  | .venter => Laws.CodeFields.venter
  | .vword => Laws.CodeFields.vword
  | .vfold => Laws.CodeFields.vfold
  | .vexit => Laws.CodeFields.vexit

/-- The well-formed codes are the codes of the instructions (30_encoding.md R91 to R95). -/
theorem code_wf_iff (c : Code) : c.wf = true ↔ ∃ i, c = encode i := by
  constructor
  · intro h
    cases c with
    | cmd w =>
      obtain ⟨op, rsvd⟩ : w.extractLsb' 0 8 = 1 ∧ w.extractLsb' 8 24 = 0 := by simpa [Code.wf] using h
      refine ⟨.update, ?_⟩
      rw [← cmdWord_fields w, op, rsvd, encode]
    | uop c =>
      obtain ⟨fam, fn⟩ : (c.extractLsb' 4 4 = 1 ∨ c.extractLsb' 4 4 = 2) ∧ c.extractLsb' 0 4 ≤ 3 := by
        simpa [Code.wf] using h
      rw [← uopCode_fields c]
      exact exists_encode_of_fields fam fn
  · rintro ⟨i, rfl⟩
    exact encode_wf i

/-- Settles O2: the table's rows hold the instructions' codes bit for bit, and so do the fields that are well formed. -/
theorem decodeAcceptsOnlyTheTable : Obligations.DecodeAcceptsOnlyTheTable := by
  unfold Obligations.DecodeAcceptsOnlyTheTable
  refine ⟨decode_eq_instr_iff, fun c => ?_⟩
  rw [code_wf_iff]
  exact exists_congr fun i => (decode_eq_instr_iff c i).symm

/-- Settles O1: each binary code is its instruction's encoding, which decodes to it. -/
theorem specCodesDecodeToTheirInstr : Obligations.SpecCodesDecodeToTheirInstr := by
  unfold Obligations.SpecCodesDecodeToTheirInstr
  exact ⟨decode_encode .update, decode_encode .unpack, decode_encode .sbyte, decode_encode .finalmod,
    decode_encode .pack, decode_encode .venter, decode_encode .vword, decode_encode .vfold, decode_encode .vexit⟩

/-! ### A reserved command word -/

/-- A write to CMD of a word that is no command is refused (30_encoding.md R93). -/
theorem hostAccess_reservedCmd {v : Word} (h : v ≠ 1) (s : State) :
    hostAccess (.write 32 (slotOffset .cmd) v) s = .next (refuse s (.reservedCmd v)) := by
  rw [hostAccess_write (r := .cmd) rfl, writeSlot, decode_cmd, if_neg h, runDecoded]

/-- Settles O7: the access leaves the pending list, and the word it writes is refused. -/
theorem reservedCommandRefused : Obligations.ReservedCommandRefused := by
  unfold Obligations.ReservedCommandRefused
  intro s rest v pending reserved
  rw [step_cons pending]
  exact hostAccess_reservedCmd reserved _

end Sys2Proof.Machine
end

section
/-! The reference checksum: its halves, its closed form, and its incremental law (40_engine_update.md R120, R121, R133). -/

namespace Sys2Proof.Machine

/-! ### Range and splitting -/

/-- The halves of Adler are the pair that the recurrence ends in: each fits sixteen bits (40_engine_update.md R120). -/
theorem halves_adler (a : Word) (bs : List Byte) : halves (adler a bs) = bs.foldl adlerByte (halves a) := by
  by_cases h : bs = []
  · rw [h, adler_nil, List.foldl_nil]
  · obtain ⟨low, high⟩ := foldl_adlerByte_lt (halves a) h
    simp only [Config.modulus] at low high
    simp only [halves, adler, BitVec.toNat_ofNat] at low high ⊢
    ext <;> simp only <;> omega

/-- Over a nonempty stream both halves of Adler are reduced (40_engine_update.md R134). -/
theorem adler_halves_lt (a : Word) {bs : List Byte} (h : bs ≠ []) :
    (adler a bs).toNat % 65536 < 65521 ∧ (adler a bs).toNat / 65536 < 65521 := by
  have bounds := foldl_adlerByte_lt (halves a) h
  rw [← halves_adler] at bounds
  exact bounds

/-- Settles O51: the recurrence goes on from the halves of the first part's checksum. -/
theorem adlerIsIncremental : Obligations.AdlerIsIncremental := by
  unfold Obligations.AdlerIsIncremental
  intro a b1 b2
  rw [adler, halves_adler, adler, List.foldl_append]

/-- Settles O52: with no byte the halves are packed again, and each byte reduces both. -/
theorem adlerEmptyAndRange : Obligations.AdlerEmptyAndRange := by
  unfold Obligations.AdlerEmptyAndRange
  exact fun a _ => ⟨adler_nil a, adler_halves_lt a⟩

/-! ### The closed form -/

/-- The sum of a stream's bytes, the byte at position i with weight n - i (40_engine_update.md R121). -/
def weightedSum (bs : List Byte) : Nat :=
  ((List.range bs.length).map (fun i => (bs.length - i) * (bs.getD i 0).toNat)).sum

/-- A byte put in front takes the whole length as its weight and leaves the others theirs. -/
theorem weightedSum_cons (b : Byte) (bs : List Byte) :
    weightedSum (b :: bs) = (bs.length + 1) * b.toNat + weightedSum bs := by
  simp [weightedSum, List.range_succ_eq_map, Function.comp_def]

/-- The unreduced sums in closed form (40_engine_update.md R121). -/
theorem foldl_rawByte_eq (p : Nat × Nat) (bs : List Byte) :
    bs.foldl rawByte p = (p.1 + (bs.map BitVec.toNat).sum, p.2 + bs.length * p.1 + weightedSum bs) := by
  induction bs generalizing p with
  | nil => simp [weightedSum]
  | cons b bs ih =>
    rw [List.foldl_cons, ih, weightedSum_cons, rawByte, List.map_cons, List.sum_cons, List.length_cons]
    ext <;> simp only <;> ring

/-- Settles O50: the halves are the unreduced sums modulo M, and those have a closed form. -/
theorem adlerClosedForm : Obligations.AdlerClosedForm := by
  unfold Obligations.AdlerClosedForm
  intro a bs h
  have packed := adler_toNat a h
  rw [rawSums, foldl_rawByte_eq] at packed
  simp only [halves, weightedSum, Config.modulus, Nat.reducePow] at packed
  rw [packed]
  constructor <;> omega

end Sys2Proof.Machine
end

section
/-! The command: UPDATE's outcomes by the checks of its pseudocode, in their order (40_engine_update.md R123). -/

namespace Sys2Proof.Machine

section
variable {s : State} (allowed : s.cfg.wf = true)
include allowed

theorem execUpdate_busy (busy : s.busy = true) : execUpdate s = .next (recordFault s .cmdWhileBusy) := by
  simp [execUpdate, allowed, busy]

theorem execUpdate_unwritten (idle : s.busy = false) {o : Nat} (h : firstUnwritten s = some o) :
    execUpdate s = .next (recordFault s (.unwrittenInput o)) := by
  simp [execUpdate, allowed, idle, h]

theorem execUpdate_accepted (idle : s.busy = false) (h : firstUnwritten s = none) :
    execUpdate s = .next { setBusy s with seq := .unpack } := by
  simp [execUpdate, allowed, idle, h]

end

/-- The command word 0x00000001 runs UPDATE (30_encoding.md R92). -/
theorem hostAccess_updateCmd (s : State) : hostAccess (.write 32 (slotOffset .cmd) 1) s = execUpdate s := by
  rw [hostAccess_write (r := .cmd) rfl, writeSlot, decode_cmd, if_pos rfl, runDecoded, exec]

/-- Settles O8: a word other than 1 is refused, and for 1 the checks of UPDATE are gone through in their order. -/
theorem updateCommandOutcome : Obligations.UpdateCommandOutcome := by
  unfold Obligations.UpdateCommandOutcome
  intro s v allowed
  by_cases command : v = 1
  · subst command
    rw [if_neg (not_not_intro rfl)]
    refine (hostAccess_updateCmd s).trans ?_
    split_ifs with busy a lo hi len lenHi
    · exact execUpdate_busy allowed busy
    all_goals rw [Bool.not_eq_true] at busy
    · exact execUpdate_unwritten allowed busy (by simp [firstUnwritten, a])
    · exact execUpdate_unwritten allowed busy (by simp [firstUnwritten, a, lo])
    · exact execUpdate_unwritten allowed busy (by simp [firstUnwritten, a, lo, hi])
    · exact execUpdate_unwritten allowed busy (by simp [firstUnwritten, a, lo, hi, len])
    · exact execUpdate_unwritten allowed busy (by simp [firstUnwritten, a, lo, hi, len, lenHi])
    · exact execUpdate_accepted allowed busy (by simp [firstUnwritten, a, lo, hi, len, lenHi])
  · rw [if_pos command]
    exact hostAccess_reservedCmd command s

/-- Settles O9: no input register in use is unwritten, so the last branch of UPDATE is taken. -/
theorem updateIsAccepted : Obligations.UpdateIsAccepted := by
  unfold Obligations.UpdateIsAccepted
  intro s allowed idle a lo hi len lenHi
  have written : firstUnwritten s = none := by
    simp only [firstUnwritten, a, lo, len, Bool.true_eq_false, if_false]
    rw [if_neg (fun h => by simp [hi h.1] at h), if_neg (fun h => by simp [lenHi h.1] at h)]
  exact execUpdate_accepted allowed idle written

end Sys2Proof.Machine
end

section
/-! What each micro-operation does when seq names it: the scalar ones field by field, and the successor of every one
(40_engine_update.md R124 to R130). -/

namespace Sys2Proof.Machine

/-! ### UNPACK -/

/-- Settles O40: the head length is that minimum, and it stops short of the first multiple of A. -/
theorem headLengthReachesAlignment : Obligations.HeadLengthReachesAlignment := by
  unfold Obligations.HeadLengthReachesAlignment
  intro addr len
  refine ⟨rfl, (headLength_aligns addr len).imp Eq.symm id, fun j hj => ?_⟩
  simp only [headLength, Config.align] at hj
  omega

section
variable {s : State} (noFault : s.faults = []) (allowed : s.cfg.wf = true)
include noFault allowed

theorem execUnpack_fits (hq : s.seq = .unpack) (fits : NoWrap s) :
    execUnpack s = .next (advance (unpackWrites s)) := by
  rw [execUnpack, microOp_run _ noFault allowed (by rw [hq]; rfl), if_neg (Nat.not_lt.2 fits)]

theorem execUnpack_wraps (hq : s.seq = .unpack) (wraps : addrSpace s < bufAddr s + bufLen s) :
    execUnpack s = .next (recordFault s (.bufWrap (bufAddr s) (bufLen s))) := by
  rw [execUnpack, microOp_run _ noFault allowed (by rw [hq]; rfl), if_pos wraps]

theorem execSbyte_admitted (hq : s.seq = .head ∨ s.seq = .tail) (read : admitted s s.ptr.toNat = true) :
    execSbyte s = .next (advance (sbyteWrites s (memByte s.mem s.ptr.toNat))) := by
  have named : seqInstr s.seq = some .sbyte := by obtain hq | hq := hq <;> rw [hq] <;> rfl
  rw [execSbyte, microOp_run _ noFault allowed named, memRead_head, if_pos read]

theorem execFinalmod_named (hq : s.seq = .finalmod) :
    execFinalmod s = .next (advance { s with s1 := modM s.s1, s2 := modM s.s2 }) := by
  rw [execFinalmod, microOp_run _ noFault allowed (by rw [hq]; rfl)]

theorem execPack_named (hq : s.seq = .pack) : execPack s = .next (advance (setDone (packResult s))) := by
  rw [execPack, microOp_run _ noFault allowed (by rw [hq]; rfl)]

end

theorem unpackWrites_inv (s : State) :
    (unpackWrites s).inv = true ↔
      0 < bufLen s ∧ (65521 ≤ s.adlerIn.toNat % 65536 ∨ 65521 ≤ s.adlerIn.toNat / 65536) := by
  show (decide (0 < bufLen s) && priorInvalid s.adlerIn) = true ↔ _
  rw [priorInvalid, lowHalf_toNat, highHalf_toNat, Bool.and_eq_true, Bool.or_eq_true]
  simp only [decide_eq_true_eq]
  rfl

/-- Settles O11: on a range that fits UNPACK makes its writes, each of which has its value as a number. -/
theorem unpackLoadsWorkingState : Obligations.UnpackLoadsWorkingState := by
  unfold Obligations.UnpackLoadsWorkingState
  intro s noFault allowed hq fits
  refine ⟨_, execUnpack_fits noFault allowed hq fits, lowHalf_toNat s.adlerIn, highHalf_toNat s.adlerIn,
    unpackWrites_inv s, unpackWrites_ptr s, unpackWrites_rem s, unpackWrites_head s, ?_, rfl⟩
  show successor s.seq (unpackWrites s) = _
  rw [hq, successor, unpackWrites_rem, unpackWrites_head]
  rfl

/-- Settles O12: on a range that wraps UNPACK records F4 alone, in a record that was empty. -/
theorem unpackFaultsOnWrap : Obligations.UnpackFaultsOnWrap := by
  unfold Obligations.UnpackFaultsOnWrap
  intro s noFault allowed hq wraps
  refine (execUnpack_wraps noFault allowed hq wraps).trans ?_
  rw [recordFault, noFault]
  rfl

/-! ### SBYTE -/

theorem sbyteWrites_s1_toNat (s : State) (b : Byte) :
    (sbyteWrites s b).s1.toNat = (s.s1.toNat + b.toNat) % 2 ^ 32 := by
  have narrow : b.toNat < 2 ^ 32 := Nat.lt_trans b.isLt (by decide)
  show (s.s1 + b.setWidth 32).toNat = _
  rw [BitVec.toNat_add, BitVec.toNat_setWidth, Nat.mod_eq_of_lt narrow]

/-- s2 takes the s1 just written (40_engine_update.md R126). -/
theorem sbyteWrites_s2_toNat (s : State) (b : Byte) :
    (sbyteWrites s b).s2.toNat = (s.s2.toNat + (sbyteWrites s b).s1.toNat) % 2 ^ 32 :=
  BitVec.toNat_add s.s2 (sbyteWrites s b).s1

theorem sbyteWrites_rem_toNat (s : State) (b : Byte) :
    (sbyteWrites s b).rem.toNat = (s.rem.toNat + lenSpace s - 1) % lenSpace s := by
  have pos : 1 ≤ lenSpace s := Nat.one_le_two_pow
  rw [Nat.add_sub_assoc pos]
  exact consume_rem_toNat s 1

theorem sbyteWrites_head_toNat {s : State} (hq : s.seq = .head) (b : Byte) :
    (sbyteWrites s b).head.toNat = (s.head.toNat + 31) % 32 := by
  have counts : (sbyteWrites s b).head = s.head - 1 := if_pos hq
  rw [counts, BitVec.toNat_sub, Nat.add_comm]
  rfl

theorem sbyteWrites_head_of_tail {s : State} (hq : s.seq = .tail) (b : Byte) : (sbyteWrites s b).head = s.head :=
  if_neg (by rw [hq]; decide)

/-- Settles O13: on an admitted byte SBYTE makes its writes, and seq is read off them by the phase it was in. -/
theorem sbyteAddsOneByte : Obligations.SbyteAddsOneByte := by
  unfold Obligations.SbyteAddsOneByte
  intro s noFault allowed hq read
  have run := execSbyte_admitted noFault allowed hq read
  generalize memByte s.mem s.ptr.toNat = b at run ⊢
  have next : ∀ {q}, s.seq = q → (advance (sbyteWrites s b)).seq = successor q (sbyteWrites s b) := fun h => h ▸ rfl
  exact ⟨_, run, sbyteWrites_s1_toNat s b, sbyteWrites_s2_toNat s b, consume_ptr_toNat s 1, sbyteWrites_rem_toNat s b,
    fun h => sbyteWrites_head_toNat h b, fun h => sbyteWrites_head_of_tail h b, next, next, rfl⟩

/-! ### FINALMOD and PACK -/

/-- Settles O15: MOD of both sums is written and PACK follows. -/
theorem finalmodReducesSums : Obligations.FinalmodReducesSums := by
  unfold Obligations.FinalmodReducesSums
  intro s noFault allowed hq
  refine (execFinalmod_named noFault allowed hq).trans ?_
  rw [advance, hq]
  rfl

/-- The result by PACK's two cases: a draw under ANY with an invalid prior, else the packed sums (40_engine_update.md
R131). -/
theorem packResult_eq (s : State) :
    packResult s = { s with
      adlerOut := if s.cfg.priorPolicy = .any ∧ s.inv = true then nextDraw s else packSums s.s1 s.s2
      draws := if s.cfg.priorPolicy = .any ∧ s.inv = true then s.draws + 1 else s.draws
      written := { s.written with adlerOut := true } } := by
  unfold packResult
  split <;> rfl

theorem packSums_eq_ofNat (s1 s2 : Word) :
    packSums s1 s2 = BitVec.ofNat 32 (s2.toNat % 65536 * 65536 + s1.toNat % 65536) := by
  rw [← packSums_toNat, BitVec.ofNat_toNat, BitVec.setWidth_eq]

/-- Settles O16: PACK stores its result, sets DONE and goes to IDLE. -/
theorem packStoresResult : Obligations.PackStoresResult := by
  unfold Obligations.PackStoresResult
  intro s noFault allowed hq
  refine (execPack_named noFault allowed hq).trans ?_
  rw [packResult_eq, packSums_eq_ofNat, advance, setDone, hq]
  rfl

/-! ### The successor -/

/-- A micro-operation that is not stuck and records no fault ends by setting seq after its writes (40_engine_update.md
R124). -/
theorem exec_eq_advance {i : Instr} {s t : State} (hu : i ≠ .update) (free : stuckAt s = none)
    (h : exec i s = .next t) (noFault : t.faults = []) : ∃ u, t = advance u ∧ u.seq = s.seq := by
  cases i with
  | update => exact absurd rfl hu
  | unpack =>
    obtain ⟨-, -, -, ⟨-, rfl⟩ | ⟨-, rfl⟩⟩ := execUnpack_next h
    · exact absurd noFault (addReason_ne_nil _ _)
    · exact ⟨_, rfl, rfl⟩
  | sbyte =>
    obtain ⟨-, -, -, ⟨stuck, -⟩ | ⟨-, rfl⟩⟩ := execSbyte_next h
    · exact absurd free stuck
    · exact ⟨_, rfl, rfl⟩
  | vword =>
    obtain ⟨-, -, -, ⟨stuck, -⟩ | ⟨-, rfl⟩⟩ := execVword_next h
    · exact absurd free stuck
    · exact ⟨_, rfl, rfl⟩
  | finalmod => obtain ⟨-, -, -, rfl⟩ := execFinalmod_next h; exact ⟨_, rfl, rfl⟩
  | pack => obtain ⟨-, -, -, rfl⟩ := execPack_next h; exact ⟨_, rfl, by rw [packResult_eq]; rfl⟩
  | venter => obtain ⟨-, -, -, rfl⟩ := execVenter_next h; exact ⟨_, rfl, rfl⟩
  | vfold => obtain ⟨-, -, -, ⟨-, rfl⟩ | ⟨-, rfl⟩⟩ := execVfold_next h <;> exact ⟨_, rfl, rfl⟩
  | vexit => obtain ⟨-, -, -, rfl⟩ := execVexit_next h; exact ⟨_, rfl, rfl⟩

/-- Settles O21: seq is the successor of the old one, which the write of seq does not change. -/
theorem successorFollowsTable : Obligations.SuccessorFollowsTable := by
  unfold Obligations.SuccessorFollowsTable
  intro i s t hu free h noFault
  obtain ⟨u, rfl, hq⟩ := exec_eq_advance hu free h noFault
  rw [advance_seq, hq]
  cases s.seq <;> rfl

end Sys2Proof.Machine
end

section
/-! The result that PACK stores where its phase's facts hold: Adler of the prior over the buffer (40_engine_update.md
R122, R131, R134). -/

namespace Sys2Proof.Machine

/-- PACK's value is a draw: the policy is ANY, the length nonzero and the prior invalid (40_engine_update.md R131). -/
def Drawn (s : State) : Prop :=
  s.cfg.priorPolicy = .any ∧ 0 < bufLen s ∧ priorInvalid s.adlerIn = true

theorem stream_eq_nil_iff (s : State) : stream s = [] ↔ bufLen s = 0 := by
  rw [stream, ← List.length_eq_zero_iff, streamTake_length]

/-- A valid prior has both halves below M (40_engine_update.md R131). -/
theorem priorInvalid_eq_false {a : Word} (h : priorInvalid a = false) :
    a.toNat % 65536 < 65521 ∧ a.toNat / 65536 < 65521 := by
  rw [priorInvalid, lowHalf_toNat, highHalf_toNat, Bool.or_eq_false_iff] at h
  simpa using h

/-- Adler over the buffer is in range when a byte was read or the prior was (40_engine_update.md R134). -/
theorem adler_stream_halves_lt {s : State} (h : 0 < bufLen s ∨ priorInvalid s.adlerIn = false) :
    (adler s.adlerIn (stream s)).toNat % 65536 < 65521 ∧ (adler s.adlerIn (stream s)).toNat / 65536 < 65521 := by
  by_cases empty : stream s = []
  · obtain nonempty | valid := h
    · exact absurd ((stream_eq_nil_iff s).1 empty) (Nat.ne_of_gt nonempty)
    · rw [empty, adler_nil]
      exact priorInvalid_eq_false valid
  · exact adler_halves_lt _ empty

/-- The mark inv tells whether the prior is invalid, so PACK packs the sums unless its value is a draw. -/
theorem packResult_adlerOut {s : State} (phase : PhaseInv s) (hq : s.seq = .pack) (packed : ¬Drawn s) :
    (packResult s).adlerOut = adler s.adlerIn (stream s) := by
  rw [PhaseInv, hq] at phase
  obtain ⟨⟨-, -, -, inv_eq⟩, -, sums, -⟩ := phase
  have noDraw : ¬(s.cfg.priorPolicy = .any ∧ s.inv = true) := by
    rwa [inv_eq, Bool.and_eq_true, decide_eq_true_iff]
  rw [packResult_eq, ← sums]
  exact if_neg noDraw

/-- Settles O58: PACK stores the packed sums, which its phase's facts say are Adler over the buffer. -/
theorem packedResultIsAdler : Obligations.PackedResultIsAdler := by
  unfold Obligations.PackedResultIsAdler
  rintro s ⟨-, -, -, -, phase⟩ noFault allowed hq packed
  have result := packResult_adlerOut phase hq packed
  exact ⟨_, execPack_named noFault allowed hq, result, fun h => result ▸ adler_stream_halves_lt h⟩

end Sys2Proof.Machine
end

section
/-! The number of micro-operations left in each phase (40_engine_update.md R136): it begins as the count of R136, and
every micro-operation takes one off it. -/

namespace Sys2Proof.Machine

/-! ### Counting the vector phase -/

/-- The number of chunks that nw vector reads make, nw / (VNMAX / W) rounded up (40_engine_update.md R136). -/
def chunkCount (p : Params) (nw : Nat) : Nat :=
  (nw + p.vnmax / Config.width - 1) / (p.vnmax / Config.width)

/-- The micro-operations from VENTER or VFOLD on, both alike, with n bytes left: that one, the VWORDs, a VFOLD for each
chunk, VEXIT, the tail, FINALMOD and PACK. -/
def vectorSteps (p : Params) (n : Nat) : Nat :=
  1 + (n / Config.width + chunkCount p (n / Config.width)) + 1 + (n % Config.width + 2)

/-- The micro-operations after the head with n bytes left. -/
def bulkSteps (p : Params) (n : Nat) : Nat :=
  if Config.width ≤ n then vectorSteps p n else n + 2

/-- Rounding up: a first chunk of at most VNMAX / W reads, and the chunks of the reads after it. -/
theorem chunkCount_first {p : Params} (hp : p.wf = true) {w : Nat} (pos : 0 < w) :
    chunkCount p w = chunkCount p (w - min (p.vnmax / 16) w) + 1 := by
  obtain ⟨-, hmin, -, -⟩ := vnmaxOk_bounds hp
  have hk : 0 < p.vnmax / 16 := Nat.div_pos hmin (by decide)
  simp only [chunkCount, Config.width]
  generalize p.vnmax / 16 = k at hk ⊢
  rw [← Nat.add_div_right _ hk]
  obtain short | long := Nat.le_total w k
  · rw [Nat.min_eq_right short, Nat.sub_self, Nat.div_eq_of_lt_le (k := 1) (by omega) (by omega),
      Nat.div_eq_of_lt_le (k := 1) (by omega) (by omega)]
  · rw [Nat.min_eq_left long]
    congr 1
    omega

theorem chunkCount_zero {p : Params} (hp : p.wf = true) : chunkCount p 0 = 0 := by
  obtain ⟨-, hmin, -, -⟩ := vnmaxOk_bounds hp
  simp only [chunkCount, Config.width]
  exact Nat.div_eq_of_lt (by omega)

/-- VENTER and VFOLD start a chunk, which the VWORDs read. -/
theorem vectorSteps_chunk {p : Params} (hp : p.wf = true) {n c : Nat} (full : Config.width ≤ n)
    (hc : c = min p.vnmax (n - n % 16)) : vectorSteps p n = c / Config.width + vectorSteps p (n - c) + 1 := by
  obtain ⟨hmul, -, -, -⟩ := vnmaxOk_bounds hp
  simp only [vectorSteps, Config.width] at full ⊢
  have reads : c / 16 = min (p.vnmax / 16) (n / 16) := by omega
  have rest : (n - c) / 16 = n / 16 - min (p.vnmax / 16) (n / 16) := by omega
  have tail : (n - c) % 16 = n % 16 := by omega
  rw [reads, rest, tail, chunkCount_first hp (w := n / 16) (by omega)]
  omega

/-- The last VFOLD is followed by VEXIT and the tail. -/
theorem vectorSteps_short {p : Params} (hp : p.wf = true) {n : Nat} (short : n < Config.width) :
    vectorSteps p n = 1 + (n + 2) + 1 := by
  rw [vectorSteps, Nat.div_eq_of_lt short, Nat.mod_eq_of_lt short, chunkCount_zero hp]
  omega

/-! ### Counting every phase -/

/-- The micro-operations from phase q to PACK, both counted. -/
def stepsIn (q : Seq) (s : State) : Nat :=
  match q with
  | .idle => 0
  | .unpack => updateSteps s
  | .head => s.head.toNat + bulkSteps s.cfg (s.rem.toNat - s.head.toNat)
  | .venter => vectorSteps s.cfg s.rem.toNat
  | .vword => s.chunk.toNat / Config.width + vectorSteps s.cfg (s.rem.toNat - s.chunk.toNat)
  | .vfold => vectorSteps s.cfg s.rem.toNat
  | .vexit => 1 + (s.rem.toNat + 2)
  | .tail => s.rem.toNat + 2
  | .finalmod => 2
  | .pack => 1

/-- The micro-operations left. -/
def stepsLeft (s : State) : Nat :=
  stepsIn s.seq s

theorem updateSteps_of_empty {s : State} (h : bufLen s = 0) : updateSteps s = 2 := if_pos h

/-- The count of R136 is UNPACK, the head and what follows it. -/
theorem updateSteps_of_nonempty {s : State} (h : bufLen s ≠ 0) :
    updateSteps s = headLength (bufAddr s) (bufLen s)
      + bulkSteps s.cfg (bufLen s - headLength (bufAddr s) (bufLen s)) + 1 := by
  rw [updateSteps, if_neg h]
  dsimp only
  generalize bufLen s - headLength (bufAddr s) (bufLen s) = r
  simp only [bulkSteps, vectorSteps, chunkCount, Config.width]
  split_ifs <;> omega

theorem stepsIn_tail_or_finalmod (s : State) :
    stepsIn (if 0 < s.rem.toNat then .tail else .finalmod) s = s.rem.toNat + 2 := by
  split
  · rfl
  · rw [stepsIn]
    omega

theorem stepsIn_successor_head (s : State) : stepsIn (successor .head s) s = stepsIn .head s := by
  rw [successor]
  split
  · rfl
  · have head_zero : s.head.toNat = 0 := by omega
    have bulk : stepsIn .head s = bulkSteps s.cfg s.rem.toNat := by
      rw [stepsIn, head_zero, Nat.sub_zero, Nat.zero_add]
    rw [bulk, bulkSteps]
    split
    · rfl
    · exact stepsIn_tail_or_finalmod s

/-! ### Every micro-operation but PACK takes one off -/

/-- A micro-operation before PACK, from s to t: only working state changes, the next phase's facts hold, and one
micro-operation less is left. -/
structure Progress (s t : State) : Prop where
  same : SameToHost s t
  running : t.seq ≠ .idle
  phase : PhaseInv t
  count : stepsLeft s = stepsLeft t + 1

theorem progress_advance {s u : State} {q : Seq} (hq : s.seq = q) (hu : u.seq = s.seq) (hi : q ≠ .idle) (hp : q ≠ .pack)
    (same : SameToHost s (advance u)) (phase : PhaseFacts (successor q u) u)
    (count : stepsIn q s = stepsIn (successor q u) u + 1) : Progress s (advance u) := by
  subst hq
  rw [← hu] at phase hi hp
  refine ⟨same, successor_ne_idle hi hp u, phase, ?_⟩
  rw [stepsLeft, count, ← hu]
  rfl

theorem unpack_progress {s : State} (hq : s.seq = .unpack) (fits : NoWrap s) :
    Progress s (advance (unpackWrites s)) := by
  refine progress_advance hq rfl (by decide) (by decide) rfl (unpackWrites_phase fits) ?_
  rw [stepsIn]
  have hrem := unpackWrites_rem s
  by_cases empty : bufLen s = 0
  · rw [updateSteps_of_empty empty, successor, if_pos (hrem.trans empty)]
    rfl
  · have same : successor .unpack (unpackWrites s) = successor .head (unpackWrites s) := by
      rw [successor, successor, if_neg (by omega), if_pos (show 0 < (unpackWrites s).rem.toNat by omega)]
    rw [updateSteps_of_nonempty empty, same, stepsIn_successor_head, stepsIn, unpackWrites_head, hrem]
    rfl

theorem sbyte_progress_head {s : State} (hq : s.seq = .head) (phase : PhaseInv s) :
    Progress s (advance (sbyteWrites s (memByte s.mem s.ptr.toNat))) := by
  refine progress_advance hq rfl (by decide) (by decide) rfl (sbyteWrites_phase_head hq phase) ?_
  rw [PhaseInv, hq] at phase
  obtain ⟨placed, head_pos, head_lt, head_le, -⟩ := phase
  generalize memByte s.mem s.ptr.toNat = b
  have hrem : (sbyteWrites s b).rem.toNat = s.rem.toNat - 1 := placed_consume_rem placed (by omega)
  have hhead : (sbyteWrites s b).head.toNat = s.head.toNat - 1 := by
    rw [sbyteWrites_head_toNat hq]
    omega
  rw [stepsIn_successor_head, stepsIn, stepsIn, hrem, hhead, sbyteWrites_cfg,
    show s.rem.toNat - 1 - (s.head.toNat - 1) = s.rem.toNat - s.head.toNat by omega]
  omega

theorem sbyte_progress_tail {s : State} (hq : s.seq = .tail) (phase : PhaseInv s) :
    Progress s (advance (sbyteWrites s (memByte s.mem s.ptr.toNat))) := by
  refine progress_advance hq rfl (by decide) (by decide) rfl (sbyteWrites_phase_tail hq phase) ?_
  rw [PhaseInv, hq] at phase
  obtain ⟨placed, rem_pos, -⟩ := phase
  generalize memByte s.mem s.ptr.toNat = b
  have hrem : (sbyteWrites s b).rem.toNat = s.rem.toNat - 1 := placed_consume_rem placed rem_pos
  rw [successor, stepsIn_tail_or_finalmod, hrem, stepsIn]
  omega

/-- The reads of a chunk just started, and what follows them. -/
theorem stepsIn_startChunk {s : State} (hp : s.cfg.wf = true) (full : Config.width ≤ s.rem.toNat) :
    vectorSteps s.cfg s.rem.toNat = stepsIn .vword (startChunk s) + 1 :=
  vectorSteps_chunk hp full (startChunk_chunk_toNat hp)

theorem venter_progress {s : State} (hp : s.cfg.wf = true) (hq : s.seq = .venter) (phase : PhaseInv s) :
    Progress s (advance (startChunk { s with vs1 := ⟨fold2 s.s1, 0, 0, 0⟩, vs2 := ⟨fold2 s.s2, 0, 0, 0⟩ })) := by
  refine progress_advance hq rfl (by decide) (by decide) rfl (venter_phase hp hq phase) ?_
  rw [PhaseInv, hq] at phase
  obtain ⟨-, -, full, -⟩ := phase
  exact stepsIn_startChunk (s := { s with vs1 := ⟨fold2 s.s1, 0, 0, 0⟩, vs2 := ⟨fold2 s.s2, 0, 0, 0⟩ }) hp full

theorem vword_progress {s : State} (hp : s.cfg.wf = true) (hq : s.seq = .vword) (phase : PhaseInv s) :
    Progress s (advance (vwordNext s)) := by
  refine progress_advance hq rfl (by decide) (by decide) rfl (vwordNext_phase hp hq phase) ?_
  rw [PhaseInv, hq] at phase
  obtain ⟨placed, -, read_le, -, chunk_le, -⟩ := phase
  have hrem : (vwordNext s).rem.toNat = s.rem.toNat - 16 := placed_consume_rem placed (Nat.le_trans read_le chunk_le)
  have hchunk : (vwordNext s).chunk.toNat = s.chunk.toNat - 16 :=
    BitVec.toNat_sub_of_le (by rw [BitVec.le_def]; exact read_le)
  have more : stepsIn (successor .vword (vwordNext s)) (vwordNext s) = stepsIn .vword (vwordNext s) := by
    rw [successor]
    split
    · rfl
    · rename_i last
      rw [stepsIn, stepsIn, Nat.eq_zero_of_not_pos last, Nat.zero_div, Nat.zero_add, Nat.sub_zero]
  simp only [Config.width] at read_le
  rw [more, stepsIn, stepsIn, hrem, hchunk, vwordWrites_cfg, Config.width,
    show s.rem.toNat - 16 - (s.chunk.toNat - 16) = s.rem.toNat - s.chunk.toNat by omega]
  omega

theorem vfold_progress_next_chunk {s : State} (hp : s.cfg.wf = true) (hq : s.seq = .vfold) (phase : PhaseInv s)
    (full : Config.width ≤ s.rem.toNat) : Progress s (advance (startChunk (foldBoth s))) := by
  have next : successor .vfold (startChunk (foldBoth s)) = .vword := if_pos full
  refine progress_advance hq rfl (by decide) (by decide) rfl ?_ ?_ <;> rw [next]
  · exact vfold_phase_next_chunk hp hq phase full
  · exact stepsIn_startChunk (s := foldBoth s) hp full

theorem vfold_progress_exit {s : State} (hp : s.cfg.wf = true) (hq : s.seq = .vfold) (phase : PhaseInv s)
    (short : s.rem.toNat < Config.width) : Progress s (advance (foldBoth s)) := by
  have next : successor .vfold (foldBoth s) = .vexit := if_neg (Nat.not_le_of_lt short)
  refine progress_advance hq rfl (by decide) (by decide) rfl ?_ ?_ <;> rw [next]
  · exact vfold_phase_exit hq phase short
  · exact vectorSteps_short hp short

theorem vexit_progress {s : State} (hq : s.seq = .vexit) (phase : PhaseInv s) :
    Progress s (advance { s with s1 := s.vs1.sum, s2 := s.vs2.sum }) := by
  refine progress_advance hq rfl (by decide) (by decide) rfl (vexit_phase hq phase) ?_
  rw [successor, stepsIn_tail_or_finalmod, stepsIn]
  exact Nat.add_comm _ _

theorem finalmod_progress {s : State} (hq : s.seq = .finalmod) (phase : PhaseInv s) :
    Progress s (advance { s with s1 := modM s.s1, s2 := modM s.s2 }) :=
  progress_advance hq rfl (by decide) (by decide) rfl (finalmod_phase hq phase) rfl

/-- Where the phase's facts hold and the engine is free to run, each micro-operation but PACK makes progress. -/
theorem exec_progress {i : Instr} {s t : State} (named : seqInstr s.seq = some i) (notPack : i ≠ .pack)
    (free : stuckAt s = none) (fits : NoWrap s) (phase : PhaseInv s) (run : exec i s = .next t) : Progress s t := by
  cases i with
  | update => exact absurd rfl (seqInstr_ne_update named)
  | pack => exact absurd rfl notPack
  | unpack =>
    obtain ⟨-, -, hq, ⟨wraps, -⟩ | ⟨-, rfl⟩⟩ := execUnpack_next run
    · exact absurd fits (Nat.not_le_of_lt wraps)
    · exact unpack_progress hq fits
  | sbyte =>
    obtain ⟨-, -, hq, ⟨stuck, -⟩ | ⟨-, rfl⟩⟩ := execSbyte_next run
    · exact absurd free stuck
    · exact hq.elim (sbyte_progress_head · phase) (sbyte_progress_tail · phase)
  | finalmod =>
    obtain ⟨-, -, hq, rfl⟩ := execFinalmod_next run
    exact finalmod_progress hq phase
  | venter =>
    obtain ⟨-, hp, hq, rfl⟩ := execVenter_next run
    exact venter_progress hp hq phase
  | vword =>
    obtain ⟨-, hp, hq, ⟨stuck, -⟩ | ⟨-, rfl⟩⟩ := execVword_next run
    · exact absurd free stuck
    · exact vword_progress hp hq phase
  | vfold =>
    obtain ⟨-, hp, hq, ⟨full, rfl⟩ | ⟨short, rfl⟩⟩ := execVfold_next run
    · exact vfold_progress_next_chunk hp hq phase full
    · exact vfold_progress_exit hp hq phase short
  | vexit =>
    obtain ⟨-, -, hq, rfl⟩ := execVexit_next run
    exact vexit_progress hq phase

end Sys2Proof.Machine
end

section
/-! An UPDATE with only the engine moving: from UNPACK it ends after the count of R136 with Adler over the buffer
(40_engine_update.md R122, R129, R132, R136). -/

namespace Sys2Proof.Machine

/-! ### The engine alone -/

/-- An UPDATE is under way over an admitted buffer that does not wrap, no other agent has a pending step, and the phase's
facts hold. -/
structure EngineAlone (s : State) : Prop where
  quiet : s.inputs = []
  noFault : s.faults = []
  allowed : s.cfg.wf = true
  fits : NoWrap s
  readable : BufferAdmitted s
  running : s.seq ≠ .idle
  phase : PhaseInv s

/-- A phase that reads has the bytes it reads left. -/
theorem phaseInv_read_le {s : State} (phase : PhaseInv s) (reads : 0 < readWidth s.seq) :
    Placed s ∧ readWidth s.seq ≤ s.rem.toNat := by
  rw [PhaseInv] at phase
  cases hq : s.seq with
  | head =>
    rw [hq] at phase
    obtain ⟨placed, head_pos, -, head_le, -⟩ := phase
    exact ⟨placed, Nat.le_trans head_pos head_le⟩
  | vword =>
    rw [hq] at phase
    obtain ⟨placed, -, read_le, -, chunk_le, -⟩ := phase
    exact ⟨placed, Nat.le_trans read_le chunk_le⟩
  | tail =>
    rw [hq] at phase
    obtain ⟨placed, rem_pos, -⟩ := phase
    exact ⟨placed, rem_pos⟩
  | idle | unpack | venter | vfold | vexit | finalmod | pack =>
    rw [hq] at reads
    exact absurd reads (Nat.lt_irrefl 0)

/-- Over an admitted buffer the engine is never stuck (20_memory.md R69, R70). -/
theorem EngineAlone.free {s : State} (h : EngineAlone s) : stuckAt s = none := by
  rw [stuckAt_eq_none]
  intro k hk
  obtain ⟨placed, left⟩ := phaseInv_read_le h.phase (by omega)
  obtain ⟨low, high⟩ := placed_read_inside placed (by omega) left
  have inside := h.readable (s.ptr.toNat + k - bufAddr s) (by omega)
  rwa [show bufAddr s + (s.ptr.toNat + k - bufAddr s) = s.ptr.toNat + k by omega] at inside

/-- With nothing pending and the engine free to run, the step is the micro-operation that seq names. -/
theorem EngineAlone.step_eq {s : State} (h : EngineAlone s) : ∃ i, seqInstr s.seq = some i ∧ step s = exec i s := by
  have turn : step s = engineTurn s := by
    rw [step_nil h.quiet, if_neg]
    rw [issued_eq_none]
    rintro (idle | fault | stuck)
    exacts [h.running idle, fault h.noFault, stuck h.free]
  obtain ⟨i, -, -, named, run⟩ | ⟨fault | stuck | idle, -⟩ := engineTurn_cases s
  · exact ⟨i, named, turn.trans run⟩
  · exact absurd h.noFault fault
  · exact absurd h.free stuck
  · exact absurd idle h.running

/-- A micro-operation that is free to run answers a next state. -/
theorem exec_answers {i : Instr} {s : State} (noFault : s.faults = []) (allowed : s.cfg.wf = true)
    (named : seqInstr s.seq = some i) : ∃ t, exec i s = .next t := by
  cases i with
  | update => exact absurd rfl (seqInstr_ne_update named)
  | unpack =>
    rw [exec, execUnpack, microOp_run _ noFault allowed named]
    split <;> exact ⟨_, rfl⟩
  | sbyte =>
    rw [exec, execSbyte, microOp_run _ noFault allowed named]
    split <;> exact ⟨_, rfl⟩
  | vword =>
    rw [exec, execVword, microOp_run _ noFault allowed named]
    split <;> exact ⟨_, rfl⟩
  | finalmod => exact ⟨_, microOp_run _ noFault allowed named⟩
  | pack => exact ⟨_, microOp_run _ noFault allowed named⟩
  | venter => exact ⟨_, microOp_run _ noFault allowed named⟩
  | vfold => exact ⟨_, microOp_run _ noFault allowed named⟩
  | vexit => exact ⟨_, microOp_run _ noFault allowed named⟩

/-- Before PACK the engine makes progress and goes on alone. -/
theorem EngineAlone.step_progress {s : State} (h : EngineAlone s) (notPack : s.seq ≠ .pack) :
    ∃ t, step s = .next t ∧ EngineAlone t ∧ Progress s t := by
  obtain ⟨i, named, run⟩ := h.step_eq
  obtain ⟨t, answers⟩ := exec_answers h.noFault h.allowed named
  have hi : i ≠ .pack := by
    rintro rfl
    exact notPack (seqInstr_pack named)
  have progress := exec_progress named hi h.free h.fits h.phase answers
  refine ⟨t, run.trans answers, ?_, progress⟩
  have ⟨same, running, phase, _⟩ := progress
  rw [same] at running phase ⊢
  exact ⟨h.quiet, h.noFault, h.allowed, h.fits, h.readable, running, phase⟩

/-! ### The end of the UPDATE -/

/-- The UPDATE of s has ended in t, with its result unless that is a draw (40_engine_update.md R122, R128). -/
def Completes (s t : State) : Prop :=
  t.seq = .idle ∧ t.busy = false ∧ t.done = true ∧ t.faults = []
    ∧ (¬Drawn s → t.adlerOut = adler s.adlerIn (stream s))

theorem EngineAlone.pack_completes {s : State} (h : EngineAlone s) (hq : s.seq = .pack) :
    ∃ t, step s = .next t ∧ Completes s t := by
  obtain ⟨i, named, run⟩ := h.step_eq
  rw [hq] at named
  cases named
  refine ⟨_, run.trans (execPack_named h.noFault h.allowed hq), ?_, rfl, rfl, ?_, packResult_adlerOut h.phase hq⟩
  · rw [packResult_eq, advance, setDone, hq]
    rfl
  · rw [packResult_eq]
    exact h.noFault

/-- The end is measured by the input registers, the buffer and the policy, which no change of working state touches. -/
theorem Completes.of_sameToHost {s t u : State} (same : SameToHost s t) (h : Completes t u) : Completes s u := by
  rw [same] at h
  exact h

theorem run_succ {s t : State} (h : step s = .next t) (n : Nat) :
    Host.Core.run core (n + 1) s = Host.Core.run core n t := by
  have answers : core.step s = .next t := h
  simp only [Host.Core.run, answers]

/-- The UPDATE ends when no micro-operation is left. -/
theorem EngineAlone.completes {s : State} (h : EngineAlone s) :
    ∃ t, Host.Core.run core (stepsLeft s) s = .next t ∧ Completes s t := by
  by_cases hq : s.seq = .pack
  · obtain ⟨t, run, completes⟩ := h.pack_completes hq
    exact ⟨t, by rw [stepsLeft, hq]; exact run_succ run 0, completes⟩
  · obtain ⟨t, run, alone, same, -, -, count⟩ := h.step_progress hq
    obtain ⟨u, rest, completes⟩ := alone.completes
    exact ⟨u, by rw [count, run_succ run, rest], completes.of_sameToHost same⟩
termination_by stepsLeft s
decreasing_by omega

theorem statusWord_of_done {s : State} (busy : s.busy = false) (done : s.done = true) : statusWord s = 2 := by
  rw [statusWord, busy, done]
  rfl

/-- At UNPACK no phase's facts are asked for. -/
theorem engineAlone_of_unpack {s : State} (quiet : s.inputs = []) (noFault : s.faults = []) (allowed : s.cfg.wf = true)
    (hq : s.seq = .unpack) (fits : NoWrap s) (readable : BufferAdmitted s) : EngineAlone s :=
  ⟨quiet, noFault, allowed, fits, readable, by rw [hq]; decide, by rw [PhaseInv, hq]; trivial⟩

/-- Settles O60, by induction on the micro-operations left: each keeps its phase's facts and takes one off the count,
under R247's premise that the engine moves (log entry 22). -/
theorem updateComputesAdler : Obligations.UpdateComputesAdler := by
  unfold Obligations.UpdateComputesAdler
  intro s quiet noFault allowed hq fits readable
  have count : stepsLeft s = updateSteps s := by rw [stepsLeft, hq, stepsIn]
  rw [← count]
  exact (engineAlone_of_unpack quiet noFault allowed hq fits readable).completes

/-- Settles O59: an empty buffer wraps nowhere and has no byte to read, so UNPACK goes to PACK, and the UPDATE ends
with Adler of nothing. -/
theorem zeroLengthReturnsPrior : Obligations.ZeroLengthReturnsPrior := by
  unfold Obligations.ZeroLengthReturnsPrior
  intro s quiet noFault allowed hq empty
  have fits : NoWrap s := by
    rw [NoWrap, empty]
    exact Nat.le_of_lt (bufAddr_lt s)
  have readable : BufferAdmitted s := fun i hi => absurd hi (by omega)
  have alone := engineAlone_of_unpack quiet noFault allowed hq fits readable
  obtain ⟨i, named, run⟩ := alone.step_eq
  rw [hq] at named
  cases named
  refine ⟨_, run_succ (run.trans (execUnpack_fits noFault allowed hq fits)) 0, ?_, ?_⟩
  · show successor s.seq (unpackWrites s) = .pack
    rw [hq, successor, if_pos ((unpackWrites_rem s).trans empty)]
  · obtain ⟨u, two, idle, busy, done, -, result⟩ := updateComputesAdler s quiet noFault allowed hq fits readable
    rw [updateSteps_of_empty empty] at two
    refine ⟨u, two, idle, ?_, ?_⟩
    · rw [result (fun drawn => Nat.ne_of_gt drawn.2.1 empty), (stream_eq_nil_iff s).2 empty, adler_nil]
    · exact statusWord_of_done busy done

end Sys2Proof.Machine
end

section
/-! The vector phase: the horizontal sums and the chunk bound as numbers, what each vector micro-operation does when seq
names it, and that no sum wraps (41_vector_reduce.md R161 to R172). -/

namespace Sys2Proof.Machine

/-! ### HSUM, WSUM and the chunk bound -/

/-- Settles O41: both packings give back the lane's four bytes, whose sum fits a word. -/
theorem hsumAddsLaneBytes : Obligations.HsumAddsLaneBytes := by
  unfold Obligations.HsumAddsLaneBytes
  intro p bs l hlen hl
  exact ⟨hsum_packVec_toNat p hlen hl, hsum_packVec_le p hlen hl⟩

/-- Sixteen bytes 0xFF reach the maximum of WSUM in every lane (41_vector_reduce.md R163). -/
theorem wsum_packVec_replicate (p : VecPack) {l : Nat} (hl : l < 4) :
    (wsum p (packVec p (List.replicate 16 0xFF)) l).toNat = 14790 - 4080 * l := by
  have byte : ∀ k < 16, ((List.replicate 16 (0xFF : Byte)).getD k 0).toNat = 255 := by decide
  rw [wsum_packVec_toNat p List.length_replicate hl, byte _ (by omega), byte _ (by omega), byte _ (by omega),
    byte _ (by omega)]
  omega

/-- Settles O42: both packings give back the lane's four bytes, and their weighted sum grows with each of them. -/
theorem wsumWeighsLaneBytes : Obligations.WsumWeighsLaneBytes := by
  unfold Obligations.WsumWeighsLaneBytes
  intro p bs l hlen hl
  refine ⟨?_, wsum_packVec_le p hlen hl, ?_⟩
  · simp only [Nat.sub_right_comm 16 (4 * l)]
    exact wsum_packVec_toNat p hlen hl
  · rintro rfl
    exact wsum_packVec_replicate p hl

theorem chunkBound_663 : chunkBound 663 = 4288767435 := by decide

/-- Settles O49: the bound grows with the reads of a chunk, and 663 is the last number of reads where it fits a word. -/
theorem largestSafeChunk : Obligations.LargestSafeChunk := by
  unfold Obligations.LargestSafeChunk
  refine ⟨fun v => ⟨fun h => ?_, ?_⟩, chunkBound_663, by decide⟩
  · obtain ⟨hmul, hpos, hmax, -⟩ := vnmaxOk_bounds h
    exact ⟨hmul, hpos, hmax⟩
  · rintro ⟨hmul, hpos, hmax⟩
    have fits : chunkBound (v / 16) ≤ 4288767435 := chunkBound_663 ▸ chunkBound_mono (by omega)
    simp only [vnmaxOk, Config.width, Bool.and_eq_true, beq_iff_eq, decide_eq_true_eq]
    omega

/-! ### A configuration that is not allowed -/

/-- Settles O10: UPDATE checks the configuration first, and a micro-operation that answers was free to run. -/
theorem badConfigNeverRuns : Obligations.BadConfigNeverRuns := by
  unfold Obligations.BadConfigNeverRuns
  intro s bad
  refine ⟨if_pos bad, fun i t hi run => ?_⟩
  obtain ⟨-, -, allowed⟩ := microOpRunsOnlyWhenNamed i s t hi run
  exact Bool.noConfusion (bad.symm.trans allowed)

/-! ### VENTER, VFOLD and VEXIT -/

section
variable {s : State} (noFault : s.faults = []) (allowed : s.cfg.wf = true)
include noFault allowed

theorem execVenter_named (hq : s.seq = .venter) :
    execVenter s
      = .next (advance (startChunk { s with vs1 := ⟨fold2 s.s1, 0, 0, 0⟩, vs2 := ⟨fold2 s.s2, 0, 0, 0⟩ })) := by
  rw [execVenter, microOp_run _ noFault allowed (by rw [hq]; rfl)]

theorem execVfold_named (hq : s.seq = .vfold) :
    execVfold s
      = .next (advance (if Config.width ≤ s.rem.toNat then startChunk (foldBoth s) else foldBoth s)) := by
  rw [execVfold, microOp_run _ noFault allowed (by rw [hq]; rfl)]

theorem execVexit_named (hq : s.seq = .vexit) :
    execVexit s = .next (advance { s with s1 := s.vs1.sum, s2 := s.vs2.sum }) := by
  rw [execVexit, microOp_run _ noFault allowed (by rw [hq]; rfl)]

end

/-- Settles O17: the chunk is measured by rem, which VENTER does not write. -/
theorem venterStartsVectorPhase : Obligations.VenterStartsVectorPhase := by
  unfold Obligations.VenterStartsVectorPhase
  intro s noFault allowed hq
  refine ⟨_, execVenter_named noFault allowed hq, rfl, rfl, startChunk_chunk_toNat allowed, ?_, rfl⟩
  show successor s.seq _ = .vword
  rw [hq, successor]

theorem lanesOf_get (f : Nat → Word) {l : Nat} (hl : l < 4) : (lanesOf f).get l = f l := by
  obtain rfl | rfl | rfl | rfl : l = 0 ∨ l = 1 ∨ l = 2 ∨ l = 3 := by omega
  all_goals rfl

theorem foldLanes_get (v : Lanes) {l : Nat} (hl : l < 4) : (foldLanes v).get l = fold2 (v.get l) :=
  lanesOf_get _ hl

/-- Settles O19, by whether a full read is left. -/
theorem vfoldReducesLanes : Obligations.VfoldReducesLanes := by
  unfold Obligations.VfoldReducesLanes
  intro s noFault allowed hq
  have run := execVfold_named noFault allowed hq
  have folded : ∀ l < 4,
      (foldLanes s.vs1).get l = fold2 (s.vs1.get l) ∧ (foldLanes s.vs2).get l = fold2 (s.vs2.get l) :=
    fun l hl => ⟨foldLanes_get s.vs1 hl, foldLanes_get s.vs2 hl⟩
  by_cases full : Config.width ≤ s.rem.toNat
  · rw [if_pos full] at run
    refine ⟨_, run, folded, fun _ => ⟨startChunk_chunk_toNat (s := foldBoth s) allowed, ?_⟩,
      fun short => absurd full (Nat.not_le_of_lt short), rfl⟩
    show successor s.seq _ = .vword
    rw [hq]
    exact if_pos full
  · rw [if_neg full] at run
    refine ⟨_, run, folded, fun h => absurd h full, fun _ => ⟨rfl, ?_⟩, rfl⟩
    show successor s.seq _ = .vexit
    rw [hq]
    exact if_neg full

/-- Settles O20: the lanes are summed and the successor is read off rem, which VEXIT does not write. -/
theorem vexitSumsLanes : Obligations.VexitSumsLanes := by
  unfold Obligations.VexitSumsLanes
  intro s noFault allowed hq
  refine (execVexit_named noFault allowed hq).trans ?_
  rw [advance, hq]
  rfl

/-! ### VWORD -/

/-- vs1 after VWORD, modulo 2^32 (41_vector_reduce.md R162, R166). -/
theorem vwordNext_vs1_toNat (s : State) {l : Nat} (hl : l < 4) :
    let w := fun k => (memByte s.mem (s.ptr.toNat + (4 * l + k))).toNat
    ((vwordNext s).vs1.get l).toNat = ((s.vs1.get l).toNat + (w 0 + w 1 + w 2 + w 3)) % 2 ^ 32 := by
  intro w
  show ((lanesOf _).get l).toNat = _
  rw [lanesOf_get _ hl, BitVec.toNat_add, hsum_packVec_toNat _ (readBytes_length s) hl, readBytes_getD s (by omega),
    readBytes_getD s (by omega), readBytes_getD s (by omega), readBytes_getD s (by omega)]
  rfl

/-- vs2 after VWORD, modulo 2^32: it takes the vs1 of before (41_vector_reduce.md R163, R166). -/
theorem vwordNext_vs2_toNat (s : State) {l : Nat} (hl : l < 4) :
    let w := fun k => (memByte s.mem (s.ptr.toNat + (4 * l + k))).toNat
    ((vwordNext s).vs2.get l).toNat = ((s.vs2.get l).toNat + 16 * (s.vs1.get l).toNat
      + ((16 - 4 * l) * w 0 + (15 - 4 * l) * w 1 + (14 - 4 * l) * w 2 + (13 - 4 * l) * w 3)) % 2 ^ 32 := by
  intro w
  have sixteen : (BitVec.ofNat 32 Config.width).toNat = 16 := rfl
  show ((lanesOf _).get l).toNat = _
  rw [lanesOf_get _ hl, BitVec.toNat_add, BitVec.toNat_add, BitVec.toNat_mul, sixteen, Nat.add_mod_mod, Nat.mod_add_mod,
    wsum_packVec_toNat _ (readBytes_length s) hl, readBytes_getD s (by omega), readBytes_getD s (by omega),
    readBytes_getD s (by omega), readBytes_getD s (by omega)]
  rfl

theorem vwordNext_rem_toNat (s : State) :
    (vwordNext s).rem.toNat = (s.rem.toNat + lenSpace s - 16) % lenSpace s := by
  have room : 16 ≤ lenSpace s := by
    obtain h | h := BitWidth.pow_cases s.cfg.lenW <;> rw [lenSpace, h] <;> decide
  rw [Nat.add_sub_assoc room]
  exact consume_rem_toNat s Config.width

theorem vwordNext_chunk_toNat (s : State) : (vwordNext s).chunk.toNat = (s.chunk.toNat + 2 ^ 14 - 16) % 2 ^ 14 := by
  show (s.chunk - BitVec.ofNat 14 Config.width).toNat = _
  rw [BitVec.toNat_sub, Nat.add_comm, ← Nat.add_sub_assoc (by decide)]
  rfl

/-- Settles O18: on sixteen admitted bytes VWORD makes its writes, each of which has its value as a number. -/
theorem vwordAccumulatesRead : Obligations.VwordAccumulatesRead := by
  unfold Obligations.VwordAccumulatesRead
  intro s noFault allowed hq read
  refine ⟨_, execVword_admitted noFault allowed hq read,
    fun l hl => ⟨vwordNext_vs1_toNat s hl, vwordNext_vs2_toNat s hl⟩, consume_ptr_toNat s Config.width,
    vwordNext_rem_toNat s, vwordNext_chunk_toNat s, ?_, rfl⟩
  show successor s.seq (vwordNext s) = _
  rw [hq]
  rfl

/-! ### No sum wraps -/

/-- At VWORD every lane has room for the read that is next (41_vector_reduce.md R169, R170). -/
theorem phaseInv_laneRoom {s : State} (phase : PhaseInv s) (hq : s.seq = .vword) :
    ∃ j, ∀ l < 4, LaneRoom s.cfg (j + 1) (s.vs1.get l) (s.vs2.get l) := by
  rw [PhaseInv, hq] at phase
  obtain ⟨-, -, read_le, -, -, -, -, rooms⟩ := phase
  obtain ⟨j, hj⟩ := Nat.exists_eq_add_one_of_ne_zero (Nat.ne_of_gt (Nat.div_pos read_le (by decide)))
  exact ⟨j, hj ▸ (lanesRoom_iff s).1 rooms⟩

/-- At HEAD and TAIL the sums have room for the byte that is next (40_engine_update.md R126). -/
theorem phaseInv_scalarRoom {s : State} (phase : PhaseInv s) (hq : s.seq = .head ∨ s.seq = .tail) :
    ∃ n, ScalarRoom s (n + 1) 266805 4238280 := by
  obtain hq | hq := hq <;> rw [PhaseInv, hq] at phase
  · obtain ⟨-, head_pos, -, -, -, -, room1, room2⟩ := phase
    obtain ⟨n, hn⟩ := Nat.exists_eq_add_one_of_ne_zero (Nat.ne_of_gt head_pos)
    exact ⟨n, hn ▸ ⟨Nat.le_trans room1 (by decide), Nat.le_trans room2 (by decide)⟩⟩
  · obtain ⟨-, rem_pos, -, -, room⟩ := phase
    obtain ⟨n, hn⟩ := Nat.exists_eq_add_one_of_ne_zero (Nat.ne_of_gt rem_pos)
    exact ⟨n, hn ▸ room⟩

/-- Where its lanes have room VWORD gives each its exact sum (41_vector_reduce.md R170). -/
theorem vwordNext_lane_exact {s : State} {j l : Nat} (hp : s.cfg.wf = true) (hl : l < 4)
    (room : LaneRoom s.cfg (j + 1) (s.vs1.get l) (s.vs2.get l)) :
    let w := fun k => (memByte s.mem (s.ptr.toNat + (4 * l + k))).toNat
    ((vwordNext s).vs1.get l).toNat = (s.vs1.get l).toNat + (w 0 + w 1 + w 2 + w 3)
      ∧ ((vwordNext s).vs2.get l).toNat = (s.vs2.get l).toNat + 16 * (s.vs1.get l).toNat
        + ((16 - 4 * l) * w 0 + (15 - 4 * l) * w 1 + (14 - 4 * l) * w 2 + (13 - 4 * l) * w 3) := by
  intro w
  have byte : ∀ k < 4, ((readBytes s).getD (4 * l + k) 0).toNat = w k :=
    fun k hk => congrArg BitVec.toNat (readBytes_getD s (by omega))
  obtain ⟨sum1, sum2, -⟩ := vword_lane hp (readBytes_length s) hl room
  simp only [byte 0 (by decide), byte 1 (by decide), byte 2 (by decide), byte 3 (by decide)] at sum1 sum2
  exact ⟨(congrArg BitVec.toNat (lanesOf_get _ hl)).trans sum1, (congrArg BitVec.toNat (lanesOf_get _ hl)).trans sum2⟩

/-- Settles O57: the phase's facts leave room for the read that is next, in the lanes and in the scalar sums. -/
theorem sumsNeverWrap : Obligations.SumsNeverWrap := by
  unfold Obligations.SumsNeverWrap
  refine ⟨?_, ?_⟩
  · rintro s t l ⟨-, -, -, -, phase⟩ free run hl
    obtain ⟨-, allowed, hq, ⟨stuck, -⟩ | ⟨-, rfl⟩⟩ := execVword_next run
    · exact absurd free stuck
    · obtain ⟨j, room⟩ := phaseInv_laneRoom phase hq
      exact vwordNext_lane_exact allowed hl (room l hl)
  · rintro s t ⟨-, -, -, -, phase⟩ free run
    obtain ⟨-, -, hq, ⟨stuck, -⟩ | ⟨-, rfl⟩⟩ := execSbyte_next run
    · exact absurd free stuck
    · obtain ⟨n, room⟩ := phaseInv_scalarRoom phase hq
      obtain ⟨sum1, sum2, left1, left2⟩ :=
        sbyteWrites_sums (memByte s.mem s.ptr.toNat) room (by decide) (by decide)
      rw [← sum1] at sum2
      exact ⟨sum1, sum2, by rw [advance_s1]; omega, by rw [advance_s2]; omega⟩

end Sys2Proof.Machine
end

section
/-! Range reduction: FOLD, FOLD2 and MOD (42_modular_fold.md R190 to R195). -/

namespace Sys2Proof.Machine

/-! ### FOLD and FOLD2 -/

/-- FOLD of a word is at most FOLD(0xFFFFFFFF) (42_modular_fold.md R190). -/
theorem fold_le (x : Word) : (fold x).toNat ≤ 1048560 := by
  rw [fold_toNat]
  omega

theorem fold_eq_self {x : Word} (h : x.toNat < 65536) : fold x = x := by
  apply BitVec.eq_of_toNat_eq
  rw [fold_toNat, Nat.mod_eq_of_lt h, Nat.div_eq_of_lt h, Nat.mul_zero, Nat.add_zero]

/-- Settles O44: the largest halves give a sum far below 2^32, and a word below 65536 has no high half. -/
theorem foldValueAndRange : Obligations.FoldValueAndRange := by
  unfold Obligations.FoldValueAndRange
  exact fun x => ⟨fold_toNat x, fold_le x, fold_eq_self⟩

theorem fold_iterate_mod (x : Word) (n : Nat) : (fold^[n] x).toNat % Config.modulus = x.toNat % Config.modulus := by
  induction n with
  | zero => rfl
  | succ n ih => rw [Function.iterate_succ_apply', fold_mod, ih]

/-- Settles O45, by induction on the number of FOLDs; each lane of a sum keeps its class. -/
theorem foldPreservesClass : Obligations.FoldPreservesClass := by
  unfold Obligations.FoldPreservesClass
  exact ⟨fold_iterate_mod, foldLanes_cong⟩

theorem fold2_eq_self {x : Word} (h : x.toNat < 65536) : fold2 x = x := by
  rw [fold2, fold_eq_self h, fold_eq_self h]

/-- Settles O46: FOLD2 keeps every word to X0, and a word below 65536 is its own FOLD. -/
theorem foldTwiceBound : Obligations.FoldTwiceBound := by
  unfold Obligations.FoldTwiceBound
  exact ⟨fun x => ⟨rfl, fold2_le x, fold2_eq_self⟩, by decide⟩

/-! ### The shift-and-add form -/

theorem and_mask_eq_lowHalf (x : Word) : x &&& 0xFFFF = lowHalf x := by
  apply BitVec.eq_of_toNat_eq
  rw [lowHalf_toNat, BitVec.toNat_and]
  exact Nat.and_two_pow_sub_one_eq_mod x.toNat 16

theorem shiftRight_eq_highHalf (x : Word) : x >>> 16 = highHalf x := by
  apply BitVec.eq_of_toNat_eq
  rw [highHalf_toNat, BitVec.toNat_ushiftRight, Nat.shiftRight_eq_div_pow]

/-- 16 · h − h = 15 · h, whether or not a term wraps (42_modular_fold.md R194). -/
theorem shiftLeft_four_sub_self (h : Word) : h <<< 4 - h = 15 * h := by
  have sixteen : BitVec.twoPow 32 4 = 16 := rfl
  rw [BitVec.shiftLeft_eq_mul_twoPow, sixteen]
  ring

/-- Settles O47: the mask and the shift are the two halves, and 16 times the high half less itself is 15 times it. -/
theorem foldByShiftAndAdd : Obligations.FoldByShiftAndAdd := by
  unfold Obligations.FoldByShiftAndAdd
  intro x
  rw [Nat.cast_ofNat, and_mask_eq_lowHalf, shiftRight_eq_highHalf, add_sub_assoc, shiftLeft_four_sub_self, fold]

/-! ### MOD -/

/-- Settles O48: the remainder fits a word. -/
theorem modIsTrueRemainder : Obligations.ModIsTrueRemainder := by
  unfold Obligations.ModIsTrueRemainder
  intro x
  have lt : x.toNat % Config.modulus < Config.modulus := Nat.mod_lt _ (by decide)
  exact ⟨modM_toNat x, (modM_toNat x).trans_le (Nat.le_of_lt_succ lt)⟩

end Sys2Proof.Machine
end

section
/-! Reset and hazards: an input register written while BUSY = 1, and the reset event (70_reset_and_hazards.md R240, R244). -/

namespace Sys2Proof.Machine

theorem writeInputReg_busy {s : State} (h : s.busy = true) (r : Slot) (o : Nat) (v : Word) :
    writeInputReg s r o v = .next (recordFault s (.writeWhileBusy o)) :=
  if_pos h

/-- Settles O32: each input register in use is found at its offset, and with BUSY = 1 its write only records F3. -/
theorem inputWriteWhileBusyFaults : Obligations.InputWriteWhileBusyFaults := by
  unfold Obligations.InputWriteWhileBusyFaults
  intro s v o busy inUse
  have faults : ∀ {r : Slot}, SlotInUse s.cfg r → writeSlot s r (slotOffset r) v = writeInputReg s r (slotOffset r) v →
      hostAccess (.write 32 (slotOffset r) v) s = .next (recordFault s (.writeWhileBusy (slotOffset r))) :=
    fun used isInput => (hostAccess_write used v).trans (isInput.trans (writeInputReg_busy busy _ _ v))
  obtain rfl | rfl | ⟨rfl, wide⟩ | rfl | ⟨rfl, wide⟩ := inUse
  · exact faults (r := .adlerIn) rfl rfl
  · exact faults (r := .bufAddrLo) rfl rfl
  · exact faults (slotInUse_bufAddrHi wide) rfl
  · exact faults (r := .bufLenLo) rfl rfl
  · exact faults (slotInUse_bufLenHi wide) rfl

theorem step_reset {s : State} {rest : List Input} (h : s.inputs = .reset :: rest) :
    step s = .next (resetBlock { s with inputs := rest }) :=
  step_cons h

/-- Settles O38: the event leaves the pending steps and is performed as resetBlock, which keeps only what is not the block's. -/
theorem resetEventRestoresBlock : Obligations.ResetEventRestoresBlock := by
  unfold Obligations.ResetEventRestoresBlock
  intro s rest pending
  rw [step_reset pending, resetBlock]

end Sys2Proof.Machine
end

section
/-! Canonical memory (log entry 5): only a byte written to buffer memory changes it, and memPut keeps its form. -/

namespace Sys2Proof.Machine

@[simp] theorem writeInput_mem (s : State) (r : Slot) (v : Word) : (writeInput s r v).mem = s.mem := by
  cases r <;> rfl

/-- A host register access leaves memory alone, the UPDATE it may start included. -/
theorem AccessEffect.mem_eq {s t : State} (effect : AccessEffect s t) : t.mem = s.mem := by
  cases effect with
  | stored r v _ => exact writeInput_mem s r v
  | command _ run => exact exec_mem run
  | refused _ | faulted _ | replied _ _ | drawn _ _ => rfl

theorem LineEffect.mem_wf {s t : State} (effect : LineEffect s t) (canonical : s.mem.wf = true) : t.mem.wf = true := by
  cases effect with
  | access u _ _ effect => exact (congrArg Memory.wf effect.mem_eq).trans canonical
  | writeRefused _ _ _ => exact canonical
  | memory addr b _ => exact memPut_wf canonical addr b

theorem StepEffect.mem_wf {s t : State} (effect : StepEffect s t) (canonical : s.mem.wf = true) : t.mem.wf = true := by
  cases effect with
  | engine _ _ _ _ _ run => exact (congrArg Memory.wf (exec_mem run)).trans canonical
  | access _ effect => exact (congrArg Memory.wf effect.mem_eq).trans canonical
  | line _ effect => exact effect.mem_wf canonical
  | memory addr b _ => exact memPut_wf canonical addr b
  | waits _ | writeRefused _ _ _ | admission _ | reset => exact canonical

/-- Settles O55, by the cases of what a step can do: all but a byte written leave memory as it is. -/
theorem stepKeepsMemoryCanonical : Obligations.StepKeepsMemoryCanonical := by
  unfold Obligations.StepKeepsMemoryCanonical
  intro s t canonical run
  exact (step_next run).mem_wf canonical

end Sys2Proof.Machine
end
